-- ==== Sys2Proof/Word.lean ====
section
/-! DEFINITION. The bit strings the manual names by their width. -/

namespace Sys2Proof

/-- One byte of a frame (10 section 10.6). -/
abbrev Byte := BitVec 8

/-- One word of the pick journal (R163). -/
abbrev Word := BitVec 32

/-- A tote's 32-bit label (R10). -/
abbrev ToteId := BitVec 32

/-- A 24-bit order ID (R23). -/
abbrev OrderId := BitVec 24

/-- The 24-bit product number (R23). -/
abbrev Sku := BitVec 24

end Sys2Proof
end

