-- ==== Sys2Proof/Syntax.lean ====
section
/-! DEFINITION. The commands the block takes: one constructor of `Instr` for each row of spec/opcode_table.json,
with the operands its rule names, and the types of those operands. -/

namespace Sys2Proof

/-- Temperature classes (R93). -/
inductive TempClass where
  | ambient | chilled | frozen
  deriving DecidableEq, Repr

/-- Causes of an OFFER (04 section 4.3). -/
inductive OfferCause where
  | infeed | release | relinquish
  deriving DecidableEq, Repr

/-- One compartment of a snapshot: SKU and quantity 0..255 (R60). -/
structure Compartment where
  sku : Sku
  qty : Byte
  deriving DecidableEq, Repr

/-- What the tote reader says of the carrier in front of it (R10 to R12). -/
inductive ReaderReport where
  | empty
  | tote (id : ToteId)
  | unreadable
  deriving DecidableEq, Repr

/-- Source and destination range of a received frame that is addressed (R180). -/
structure Dest where
  src : Nat
  first : Nat
  last : Nat
  deriving DecidableEq, Repr

/-- A received OFFER that has passed its check (10 section 10.6): source, tote, slot, cause, class,
compartments and the exposure field as sent. -/
structure OfferFrame where
  src : Nat
  tote : ToteId
  slot : Nat
  cause : OfferCause
  cls : TempClass
  comps : List Compartment
  exposureField : Nat
  deriving DecidableEq, Repr

/-- One line of a GRANT as sent: the quantity field is the quantity less one, `cls` is absent for a class
code that names no class, the slack is a signed 14-bit field (R30, 10 section 10.6). -/
structure GrantLine where
  lineNo : Byte
  sku : Sku
  qtyField : Byte
  cls : Option TempClass
  slack : BitVec 14
  deriving DecidableEq, Repr

/-- A received GRANT: its addressing, order ID, put field, line count as stated in the frame, and the lines the payload
length holds (R28, R29). The count disagrees with the payload length exactly when it differs from the
number of lines held. -/
structure GrantFrame where
  dest : Dest
  order : OrderId
  put : Nat
  count : Nat
  lines : List GrantLine
  deriving DecidableEq, Repr

/-- The sensor levels the part reads at a reset, occupied = true (R41, R91, R122): lane places from the
head, port seats, release-lane places from the head, put positions. -/
structure Sensors where
  lane : List Bool
  seats : List Bool
  releaseLane : List Bool
  puts : List Bool
  deriving DecidableEq, Repr

/-- The commands: the rows of spec/opcode_table.json in the table's order. -/
inductive Instr where
  /-- COLD_RESET: the supply rises through its threshold (R188). -/
  | coldReset (sensors : Sensors)
  /-- WARM_RESET: the RESET line is released (R188). -/
  | warmReset (sensors : Sensors)
  /-- ENCODER_PULSE (R3). -/
  | encoderPulse
  /-- ADVANCE: the prescale count reaches N (R4). -/
  | advance
  /-- HOME_MARK (R7, R8). -/
  | homeMark
  /-- READER_REPORT (R10). -/
  | readerReport (r : ReaderReport)
  /-- DIVERT: an entry at remaining 0 stands at the divert point (R16). -/
  | divert
  /-- DIVERT_MISS: a landing-watch entry has aged 2 (R20). -/
  | divertMiss
  /-- LAPSE_WINDOW_CLOSE for the record of a tote (R79). -/
  | lapseWindowClose (tote : ToteId)
  /-- LANE_ENTRY (R19). -/
  | laneEntry
  /-- SEAT: the seat sensor of a port reports occupied (R104). -/
  | seat (port : Nat)
  /-- SEAT_SENSOR_REPORT: the seat sensor of a port reports (R105). -/
  | seatSensorReport (port : Nat) (occupied : Bool)
  /-- SEAT_TIMEOUT: the seat timer of a port expires (R106). -/
  | seatTimeout (port : Nat)
  /-- CLEAR_KEY of a port (R107). -/
  | clearKey (port : Nat)
  /-- PORT_CLEAR: the seat sensor of a port reports empty (R114). -/
  | portClear (port : Nat)
  /-- MERGE (R115). -/
  | merge
  /-- PUT_SENSOR_REPORT (R36, R38, R40). -/
  | putSensorReport (put : Nat) (occupied : Bool)
  /-- CONFIRM_KEY at a put (R130). -/
  | confirmKey (put : Nat)
  /-- SHORT_KEY (R129). -/
  | shortKey
  /-- SECOND_TICK (R95). -/
  | secondTick
  /-- EXPOSURE_SPENT of a held tote (R96). -/
  | exposureSpent (tote : ToteId)
  /-- PUT_FLASH_END at a put (R131). -/
  | putFlashEnd (put : Nat)
  /-- ROUND_CLOSE of the record of a tote (R71). -/
  | roundClose (tote : ToteId)
  /-- OFFER received (R66). -/
  | offer (o : OfferFrame)
  /-- BID received: source, the key of its rank, tote (R69). -/
  | bid (src score distance : Nat) (tote : ToteId)
  /-- TAKE received: source, the key of its rank, tote, late mark (R73). -/
  | take (src score distance : Nat) (tote : ToteId) (late : Bool)
  /-- LANDED received (R80). -/
  | landed (src : Nat) (tote : ToteId)
  /-- EXIT received (R80). -/
  | exit (src : Nat) (tote : ToteId)
  /-- GRANT received (R29). -/
  | grant (g : GrantFrame)
  /-- CANCEL received (R33). -/
  | cancel (dest : Dest) (order : OrderId)
  /-- FETCH received (R171). -/
  | fetch (dest : Dest) (k : Byte)
  /-- CONTROL OPEN received (R148). -/
  | controlOpen (dest : Dest)
  /-- CONTROL CLOSE_SOFT received (R149). -/
  | closeSoft (dest : Dest)
  /-- CONTROL CLOSE_HARD received (R150). -/
  | closeHard (dest : Dest)
  /-- CONTROL STATUS received (R184). -/
  | status (dest : Dest)
  /-- CONTROL CLEAR_FAULTS received with its kind mask (R175). -/
  | clearFaults (dest : Dest) (mask : BitVec 16)
  /-- CONTROL MARK received: the count named by its count field, and the words its payload length holds (R170). -/
  | mark (dest : Dest) (count : Nat) (words : List Word)
  /-- FRAME_RECEIVED: the bytes of one frame as received from the line (R179). -/
  | frameReceived (bytes : List Byte)
  /-- TRANSMIT_START: the line is idle (R177). -/
  | transmitStart
  /-- ARBITRATION_LOST (R177). -/
  | arbitrationLost
  /-- BID_CARRIED (R70). -/
  | bidCarried
  /-- TAKE_CARRIED (R72). -/
  | takeCarried
  /-- FRAME_CARRIED (R177). -/
  | frameCarried
  /-- SUPPLY_FALL (R188). -/
  | supplyFall
  /-- RESET_ASSERTION (R188). -/
  | resetAssertion
  deriving DecidableEq, Repr

end Sys2Proof
end

