-- ==== Sys2Proof/Decode.lean ====
section
/-! DEFINITION. The commands that words of spec/opcode_table.json spell: no row of this block's table gives bits. -/

namespace Sys2Proof

/-- No row of the table has bits ("fields" is empty in every row), so no word spells a command (log 24). -/
def decodeTableWord (_nbits _w : Nat) : Option Instr := none

end Sys2Proof
end

