-- ==== Sys2Proof/Config.lean ====
section
/-! DEFINITION. What the part fixes (capacities of 00 section 4) and the one free value. -/

namespace Sys2Proof.Config

/-- The byte the bench reads at position `n` of a payload `pay` too short to hold it, when it answers MALFORMED with
the order ID (R32) or the action code (10 section 10.6) "as received". The spec states no value: a free value, DESIGN CHOICE
of form only, log 14. -/
opaque missingPayloadByte (pay : List Byte) (n : Nat) : Byte

/-- R23: order-line records. -/
def lineCapacity : Nat := 96
/-- R23: lines of one order. -/
def orderLineLimit : Nat := 32
/-- R63: loop roster entries. -/
def rosterCapacity : Nat := 48
/-- R112: release-lane places. -/
def releaseLanePlaces : Nat := 2
/-- R163: words of the pick journal. -/
def journalWords : Nat := 2048
/-- R167: the journal reserve. -/
def journalReserve : Nat := 192
/-- R169: words kept free for each orphan of a warm reset. -/
def orphanWords : Nat := 5
/-- R181: frames of the transmit queue. -/
def queueCapacity : Nat := 12
/-- R171: entry words that fit in one JOURNAL frame. -/
def journalFrameWords : Nat := 10
/-- R5: the longest interval the pitch history records, in ms. -/
def intervalCap : Nat := 5000
/-- R5: intervals of the pitch history. -/
def historyLength : Nat := 16
/-- R186: the marker of a programmed configuration memory, 5A3Ch. -/
def validMarker : BitVec 16 := 0x5A3C#16

end Sys2Proof.Config
end

