-- ==== Sys2Proof/Machine/State.lean ====
section
/-! DEFINITION. The state of the BP4, block by block (00 section 3), as plain data; the state right after a cold reset; the
reasons a step can stop. -/

namespace Sys2Proof.Machine

/-! ### Start-up Logic (11) -/

/-- The three strap groups, each a code of three pins (R186). -/
structure Straps where
  clockDivisor : BitVec 3
  prescale : BitVec 3
  bitRate : BitVec 3
  deriving DecidableEq, Repr

/-- A set of temperature classes (R93). -/
structure ClassSet where
  ambient : Bool
  chilled : Bool
  frozen : Bool
  deriving DecidableEq, Repr

/-- The one-time configuration memory as programmed, before clamping and validation (11 section 11.1). -/
structure ConfigMemory where
  marker : BitVec 16
  address : Nat
  loopLength : Nat
  reader : Nat
  ports : Nat
  lanePlaces : Nat
  puts : Nat
  served : ClassSet
  depth : Nat
  mergeOffset : Nat
  settle : Nat
  tLine : Nat
  tUnit : Nat
  eWarn : Nat
  roundMs : Nat
  pitch : Nat
  seatTimeout : Nat
  deriving DecidableEq, Repr

/-- The configuration image handed to every block (R186). -/
structure Image where
  clockDivisor : Nat
  prescale : Nat
  bitRate : Nat
  address : Nat
  loopLength : Nat
  reader : Nat
  ports : Nat
  lanePlaces : Nat
  puts : Nat
  served : ClassSet
  depth : Nat
  mergeOffset : Nat
  settle : Nat
  tLine : Nat
  tUnit : Nat
  eWarn : Nat
  roundMs : Nat
  pitch : Nat
  seatTimeout : Nat
  places : Nat
  divertPoint : Nat
  mergePoint : Nat
  deriving DecidableEq, Repr

/-- Supply and RESET line (R188): a reset is held while the supply is low or the line is asserted; `coldPending` marks that
the supply has fallen since the last reset was taken. -/
structure Power where
  supplyOk : Bool
  resetAsserted : Bool
  coldPending : Bool
  deriving DecidableEq, Repr

/-! ### Slot Tracker (01) -/

/-- An approach-queue entry (R14): `id` absent is the unknown marker. -/
structure ApproachEntry where
  id : Option ToteId
  slot : Nat
  remaining : Nat
  deriving DecidableEq, Repr

/-- A landing-watch entry (R18). -/
structure WatchEntry where
  tote : ToteId
  slot : Nat
  aged : Nat
  deriving DecidableEq, Repr

/-- Slot Tracker state (R22), with the count of divert strokes given since reset (log 20). -/
structure Tracker where
  prescale : Nat
  phase : Nat
  homed : Bool
  history : List Nat
  prevAdvance : Option Nat
  readFlag : Bool
  approach : List ApproachEntry
  watch : List WatchEntry
  divertStrokes : Nat
  deriving DecidableEq, Repr

/-! ### Line Table (02) -/

/-- Line states (R23). -/
inductive LineState where
  | waiting | provisional | reserved | active | done | cancelled
  deriving DecidableEq, Repr

/-- The one record that holds a line, named by its tote ID (R23, R26). -/
inductive Binding where
  | contest (t : ToteId)
  | tote (t : ToteId)
  deriving DecidableEq, Repr

/-- An order-line record (R23). -/
structure Line where
  order : OrderId
  lineNo : Byte
  sku : Sku
  put : Nat
  requested : Nat
  picked : Nat
  short : Bool
  cancelPending : Bool
  due : Int
  cls : TempClass
  arrival : Nat
  state : LineState
  binding : Option Binding
  deriving DecidableEq, Repr

/-- Put-position states (R36); `opened` is OPEN. -/
inductive PutState where
  | free | opened | suspended | complete
  deriving DecidableEq, Repr

/-- A put-position record (R36), with its number on the put wall. -/
structure Put where
  num : Nat
  state : PutState
  order : Option OrderId
  occupied : Bool
  emptied : Bool
  deriving DecidableEq, Repr

/-- An entry of a list of bound lines (R56): line key, compartment index from 1, allocated units. -/
structure BoundLine where
  order : OrderId
  lineNo : Byte
  comp : Nat
  units : Nat
  deriving DecidableEq, Repr

/-! ### Scoring Unit (03) -/

/-- The two working lanes as the last computation left them (R53, R59; log 25). -/
structure Lanes where
  weight : Nat
  time : Nat
  deriving DecidableEq, Repr

/-- A key (R54). -/
structure Key where
  score : Nat
  dist : Nat
  addr : Nat
  deriving DecidableEq, Repr

/-! ### Contest Unit (04) -/

/-- Contest states (R60); `awaitingSlot` and `lastChance` are the sub-states of CLAIMED. -/
inductive ContestState where
  | bidQueued | bidSent | won | awaitingSlot | lastChance | diverting
  deriving DecidableEq, Repr

/-- Outcomes of a contest (R62). -/
inductive ContestOutcome where
  | lost | withdrawn | yielded | lapsed | relinquished | landed
  deriving DecidableEq, Repr

/-- A contest record (R60). The round timer is kept as the reference-clock time in ms at which it expires. -/
structure Contest where
  tote : ToteId
  slot : Nat
  cls : TempClass
  comps : List Compartment
  exposure : Nat
  heard : Nat
  key : Key
  bestOther : Option Key
  state : ContestState
  roundTimer : Option Nat
  window : Nat
  readMark : Bool
  bound : List BoundLine
  saturated : Bool
  late : Bool
  deriving DecidableEq, Repr

/-- A loop-roster entry (R63); the round-close time is in ms, the holder is the key with its station address. -/
structure RosterEntry where
  tote : ToteId
  cls : TempClass
  comps : List Compartment
  exposure : Nat
  heard : Nat
  closeAt : Nat
  holder : Option Key
  deriving DecidableEq, Repr

/-! ### Tote Store and Port Sequencer (05, 06) -/

/-- A compartment of a tote record (R87). -/
structure ToteComp where
  sku : Sku
  qty : Nat
  emptied : Bool
  deriving DecidableEq, Repr

/-- Release causes (R87). -/
inductive ReleaseCause where
  | noLines | spent | closeHard | orphan | manual
  deriving DecidableEq, Repr

/-- A tote record (R87). `id` absent is the orphan marker. Its place is where it stands in `Floor`. `spentTaken` is the
model's own mark that the exposure-spent event has been taken (R95, log 21). -/
structure Tote where
  id : Option ToteId
  cls : Option TempClass
  comps : List ToteComp
  exposure : Option Nat
  landed : Nat
  bound : List BoundLine
  cause : Option ReleaseCause
  spentTaken : Bool
  deriving DecidableEq, Repr

/-- Port states (R103). -/
inductive PortState where
  | vacant | inbound | presented | releaseWait | releasing | faulted
  deriving DecidableEq, Repr

/-- A port record (R103) with its number. The seat timer is kept as the time in ms at which it expires. The stroke counts are the
strokes given to its router and its release actuator since reset (log 20). -/
structure Port where
  num : Nat
  state : PortState
  tote : Option Tote
  seatTimer : Option Nat
  occupied : Bool
  routerStrokes : Nat
  releaseStrokes : Nat
  deriving DecidableEq, Repr

/-- The bench floor: the intake-lane order with its records, the ports in port-number order, the presentation order and the
release-wait order as port numbers, and the release-lane order, where an absent record is the unrecorded marker
(R101, R103, R108, R112, R113). -/
structure Floor where
  lane : List Tote
  ports : List Port
  presentation : List Nat
  releaseWait : List Nat
  releaseLane : List (Option Tote)
  deriving DecidableEq, Repr

/-! ### Pick Sequencer (07) -/

/-- The task record (R123). -/
structure Task where
  tote : ToteId
  port : Nat
  order : OrderId
  lineNo : Byte
  put : Nat
  comp : Nat
  units : Nat
  display : Nat
  deriving DecidableEq, Repr

/-- Put-light states (R131). -/
inductive PutLight where
  | off | lit
  | flashing (count : Nat)
  deriving DecidableEq, Repr

/-- The panel of one port: its light and its display, blank when absent (R123). -/
structure PortPanel where
  num : Nat
  lit : Bool
  display : Option Nat
  deriving DecidableEq, Repr

/-- The panel of one put (R131). -/
structure PutPanel where
  num : Nat
  light : PutLight
  deriving DecidableEq, Repr

/-- The Pick Sequencer's state (R146). -/
structure Panel where
  task : Option Task
  ports : List PortPanel
  puts : List PutPanel
  deriving DecidableEq, Repr

/-! ### Mode Control (08) -/

/-- Intake modes (R147); `opened` is OPEN. -/
inductive Mode where
  | closed | opened | closingSoft | closingHard
  deriving DecidableEq, Repr

/-! ### Journal Unit (09) -/

/-- Fault kinds (R174). -/
inductive FaultKind where
  | frameCheck | frameForm | txDrop | readFail | duplicateRead | phaseSlip | phaseUnknownMerge | divertMiss | seatTimeout
  deriving DecidableEq, Repr

/-- The contents of a journal entry (09 section 9.3), by kind. Counts and quantities are numbers here and bits in
`EntryBody.words`. -/
inductive EntryBody where
  | pick (order : OrderId) (lineNo : Byte) (tote : ToteId) (q comp put : Nat)
  | short (order : OrderId) (lineNo : Byte) (tote : ToteId) (q shortBy comp put : Nat) (emptied : Bool)
  | landed (tote : ToteId) (position exposure score : Nat) (saturated : Bool)
  | released (tote : Option ToteId) (cause : Option ReleaseCause) (exposure : Nat) (quantities : List Nat)
  | exposureSpent (tote : ToteId) (lines : Nat)
  | orderComplete (order : OrderId) (put done shorted cancelled : Nat)
  | putSwapped (put : Nat) (order : OrderId)
  | claimEnd (tote : ToteId) (outcome : ContestOutcome) (score : Nat)
  | mode (old new : Mode)
  | fault (kind : FaultKind) (place : Nat) (detail : Word)
  | mark (words : List Word)
  deriving DecidableEq, Repr

/-- A journal entry (R165): the bench second it was written at, the time difference of the compact format or none for the
extended format, and its contents. -/
structure Entry where
  time : Nat
  delta : Option Nat
  body : EntryBody
  deriving DecidableEq, Repr

/-- The pick journal (R163), oldest entry first. -/
structure Journal where
  entries : List Entry
  oldest : Word
  lastTime : Option Nat
  bound : Bool
  deriving DecidableEq, Repr

/-- The first fault (R173): `bytes` are the 8 captured bytes, or none for a kind without capture. -/
structure FirstFault where
  kind : FaultKind
  seconds : Nat
  place : Nat
  bytes : List Byte
  deriving DecidableEq, Repr

/-- The fault record (R173), the sticky set as its 16-bit kind mask. -/
structure FaultRecord where
  first : Option FirstFault
  sticky : BitVec 16
  deriving DecidableEq, Repr

/-! ### Bus Interface (10) -/

/-- Outcome codes of a REPLY (R183). -/
inductive ReplyOutcome where
  | accepted | malformed | putRange | putBusy | classNotServed | duplicateLine | orderTooLong | tableFull
  | benchClosed | journalBound | notFound
  deriving DecidableEq, Repr

/-- The mode actions of CONTROL (R183). -/
inductive ModeAction where
  | opened | closeSoft | closeHard
  deriving DecidableEq, Repr

/-- STATUS contents (R184). -/
structure StatusData where
  homed : Bool
  mode : Mode
  phase : Nat
  pitch : Nat
  ports : List PortState
  laneCount : Nat
  releaseCount : Nat
  waiting : Nat
  reserved : Nat
  contests : Nat
  bound : Bool
  wordsUsed : Nat
  first : Option FirstFault
  sticky : BitVec 16
  deriving DecidableEq, Repr

/-- The contents of a REPLY (R183, 10 section 10.6). `control` carries the action code as received. -/
inductive Reply where
  | grant (order : OrderId) (outcome : ReplyOutcome)
  | cancel (order : OrderId) (outcome : ReplyOutcome) (count : Nat) (pending : Bool)
  | fetch (outcome : ReplyOutcome)
  | modeAction (action : ModeAction) (outcome : ReplyOutcome) (mode : Mode)
  | status (outcome : ReplyOutcome) (data : StatusData)
  | control (action : Byte) (outcome : ReplyOutcome)
  deriving DecidableEq, Repr

/-- The payloads of the frames a bench sends (R178). -/
inductive Payload where
  | offer (tote : ToteId) (slot : Nat) (cause : OfferCause) (cls : TempClass) (comps : List Compartment) (exposureField : Nat)
  | bid (tote : ToteId)
  | take (tote : ToteId) (late : Bool)
  | landed (tote : ToteId)
  | reply (r : Reply)
  | quiet (mode : Mode)
  | journal (first : Word) (remaining count : Nat) (bound : Bool) (words : List Word)
  deriving DecidableEq, Repr

/-- A frame of the bench (R178): the score and distance of its rank, source, destination range and payload. Class, kind
and length follow from the payload. -/
structure Frame where
  score : Nat
  dist : Nat
  src : Nat
  first : Nat
  last : Nat
  payload : Payload
  deriving DecidableEq, Repr

/-- An entry of the transmit queue (R177, R181). `ownerEnded` is the model's own mark of a BID or TAKE whose contest
record ended while the frame was in carriage (log 18). -/
structure TxEntry where
  frame : Frame
  inCarriage : Bool
  ownerEnded : Bool
  deriving DecidableEq, Repr

/-! ### The whole -/

/-- The state of the bench. `pending` is the queue of commands not yet taken (log 1); `ms` is the reference clock in milliseconds
since reset, from which the bench clock in seconds and the bench minute are read; `image` is absent while the bench is
UNCONFIGURED (R187); `closeEntry` is the model's own mark of the entry steps of a close (log 15). -/
structure State where
  pending : List Instr
  power : Power
  straps : Straps
  memory : ConfigMemory
  image : Option Image
  ms : Nat
  tracker : Tracker
  lines : List Line
  arrival : Nat
  puts : List Put
  lanes : Lanes
  contests : List Contest
  roster : List RosterEntry
  floor : Floor
  panel : Panel
  mode : Mode
  requester : Option Nat
  closeEntry : Bool
  journal : Journal
  faults : FaultRecord
  queue : List TxEntry
  received : Option Frame
  deriving DecidableEq, Repr

/-- Reasons to stop with a fault: none. Every fault of this hardware (R174) is state the bench goes on with. -/
inductive Fault where
  deriving DecidableEq, Repr

/-- Reasons to refuse. -/
inductive Refusal where
  /-- Raised by an arm of `exec` whose command has no meaning yet. Safe: nothing is claimed of it. No arm raises it. -/
  | notModelled (mnemonic : String)
  deriving DecidableEq, Repr

/-- Slot Tracker after either reset (R22). -/
def Tracker.reset : Tracker :=
  { prescale := 0, phase := 0, homed := false, history := [], prevAdvance := none, readFlag := false,
    approach := [], watch := [], divertStrokes := 0 }

/-- The power lines once a reset has been taken (R188). -/
def Power.running : Power := { supplyOk := true, resetAsserted := false, coldPending := false }

/-- The pick journal after a cold reset (R176). -/
def Journal.empty : Journal := { entries := [], oldest := 0, lastTime := none, bound := false }

/-- The fault record after a cold reset (R176). -/
def FaultRecord.empty : FaultRecord := { first := none, sticky := 0 }

/-- The bench floor of a bench with `n` ports and nothing standing on it (R122). -/
def Floor.vacant (n : Nat) : Floor :=
  { lane := [],
    ports := (List.range n).map fun i =>
      { num := i + 1, state := .vacant, tote := none, seatTimer := none, occupied := false, routerStrokes := 0,
        releaseStrokes := 0 },
    presentation := [], releaseWait := [], releaseLane := [] }

/-- The Pick Sequencer after either reset, for `n` ports and `k` puts (R146). -/
def Panel.reset (n k : Nat) : Panel :=
  { task := none,
    ports := (List.range n).map fun i => { num := i + 1, lit := false, display := none },
    puts := (List.range k).map fun i => { num := i + 1, light := .off } }

/-- DESIGN CHOICE (log 8): the configuration memory of the bench of State.reset is that of the worked start-up of 11 section 11.3,
with T_line, T_unit, E_warn and the nominal pitch of the other chapters' examples. -/
def ConfigMemory.sample : ConfigMemory :=
  { marker := Config.validMarker, address := 12, loopLength := 200, reader := 37, ports := 3, lanePlaces := 2, puts := 8,
    served := { ambient := true, chilled := true, frozen := false }, depth := 4, mergeOffset := 20, settle := 1, tLine := 8,
    tUnit := 2, eWarn := 120, roundMs := 100, pitch := 750, seatTimeout := 12 }

/-- The image that `ConfigMemory.sample` gives, clamped and derived as 11 section 11.3 shows. -/
def Image.sample : Image :=
  { clockDivisor := 1, prescale := 1, bitRate := 250, address := 12, loopLength := 200, reader := 37, ports := 3,
    lanePlaces := 2, puts := 8, served := { ambient := true, chilled := true, frozen := false }, depth := 4,
    mergeOffset := 16, settle := 2, tLine := 8, tUnit := 2, eWarn := 120, roundMs := 64, pitch := 750, seatTimeout := 12,
    places := 5, divertPoint := 41, mergePoint := 57 }

/-- The bench right after a cold reset (R188) of a bench with that memory, strap codes 0 and every sensor empty (log 8). -/
def State.reset : State :=
  { pending := [], power := .running, straps := { clockDivisor := 0, prescale := 0, bitRate := 0 },
    memory := .sample, image := some .sample, ms := 0, tracker := .reset, lines := [], arrival := 0,
    puts := (List.range 8).map fun i =>
      { num := i + 1, state := .free, order := none, occupied := false, emptied := false },
    lanes := { weight := 0, time := 0 }, contests := [], roster := [], floor := .vacant 3, panel := .reset 3 8,
    mode := .closed, requester := none, closeEntry := false, journal := .empty, faults := .empty, queue := [],
    received := none }

end Sys2Proof.Machine
end

