-- ==== Sys2Proof/Machine/Operands.lean ====
section
/-! DEFINITION. Operand forms: address ranges, keys and their order, slot arithmetic, clamps, codes, the decoding of grant fields,
and the views of the state that rules read. -/

namespace Sys2Proof

/-- A range includes an address when first ≤ address ≤ last (R180). -/
def Dest.includes (d : Dest) (addr : Nat) : Bool := d.first ≤ addr && addr ≤ d.last

/-- The class is CHILLED or FROZEN: it carries an exposure (R93). -/
def TempClass.cold : TempClass → Bool
  | .ambient => false
  | .chilled => true
  | .frozen => true

/-- Class codes of OFFER and GRANT (10 section 10.6). -/
def TempClass.code : TempClass → Nat
  | .ambient => 1 | .chilled => 2 | .frozen => 3

/-- Cause codes of an OFFER (10 section 10.6). -/
def OfferCause.code : OfferCause → Nat
  | .infeed => 1 | .release => 2 | .relinquish => 3

end Sys2Proof

namespace Sys2Proof.Machine

/-! ### Configuration and clock -/

/-- The image in force; the sample stands where there is none, and no block reads it then (R187). -/
def State.cfg (s : State) : Image := s.image.getD .sample

/-- A reset is held while the supply is low or the RESET line is asserted (R188). -/
def State.resetHeld (s : State) : Bool := !s.power.supplyOk || s.power.resetAsserted

/-- The bench takes events when it has an image (R187) and no reset is held (log 10). -/
def State.live (s : State) : Bool := s.image.isSome && !s.resetHeld

/-- The READY output (R189). -/
def State.ready (s : State) : Bool := s.live

/-- The bench clock in seconds (00 section 7). -/
def State.now (s : State) : Nat := s.ms / 1000

/-- The bench minute (R25). -/
def State.minute (s : State) : Nat := s.now / 60

/-- An event's effect, taken only while the bench takes events (R22, R28, R85, R100, R122, R145, R147, R171, R185, R187). -/
def whenLive (f : State → State) (s : State) : State := if s.live then f s else s

/-! ### Positions, slots and phase -/

/-- The non-negative remainder of a difference on the loop: (a - b) mod l (00 section 7). -/
def subMod (l a b : Nat) : Nat := (a + (l - b % l)) % l

/-- The slot at position `x` (R2). -/
def State.slotAt (s : State) (x : Nat) : Nat := subMod s.cfg.loopLength x s.tracker.phase

/-- The slot at the reader (R2). -/
def State.readerSlot (s : State) : Nat := s.slotAt s.cfg.reader

/-- The slot at the merge position (R2, R21). -/
def State.mergeSlot (s : State) : Nat := s.slotAt s.cfg.mergePoint

/-- The distance of a slot to the divert point (R2, R47). -/
def State.distance (s : State) (slot : Nat) : Nat :=
  subMod s.cfg.loopLength s.cfg.divertPoint (slot + s.tracker.phase)

/-- Clamp (00 section 7). -/
def clampNat (v a b : Nat) : Nat := if v < a then a else if b < v then b else v

/-- Clamp of signed numbers (00 section 7). -/
def clampInt (v a b : Int) : Int := if v < a then a else if b < v then b else v

/-- The pitch period P (R6). -/
def State.pitch (s : State) : Nat :=
  if s.tracker.history.length < Config.historyLength then s.cfg.pitch
  else clampNat (s.tracker.history.sum / Config.historyLength) 20 5000

/-! ### Addresses and keys -/

/-- A frame's range includes this bench (R180). -/
def State.addressed (s : State) (d : Dest) : Bool := d.includes s.cfg.address

/-- `a` beats `b`: higher score, then smaller distance, then lower address (R55). -/
def Key.beats (a b : Key) : Bool :=
  b.score < a.score || (a.score == b.score && (a.dist < b.dist || (a.dist == b.dist && a.addr < b.addr)))

/-- An optional key that beats `k`; an absent one beats nothing (R71). -/
def beatsOpt (o : Option Key) (k : Key) : Bool := o.any (·.beats k)

/-- The better of a held key and a heard one: the heard key replaces the held when none is held or when it beats it (R65, R69). -/
def betterKey (held : Option Key) (heard : Key) : Key :=
  match held with
  | none => heard
  | some k => if heard.beats k then heard else k

/-! ### Classes -/

/-- Membership in the served set (R93). -/
def ClassSet.has (x : ClassSet) : TempClass → Bool
  | .ambient => x.ambient
  | .chilled => x.chilled
  | .frozen => x.frozen

/-- The exposure of an offer in seconds: 4 × field, not read for AMBIENT (00 section 7, R93; log 22). -/
def offerExposure (cls : TempClass) (field : Nat) : Nat := if cls.cold then 4 * field else 0

/-- The exposure field sent for a remaining exposure: floor(E / 4), 0 for AMBIENT (R81, R98). -/
def exposureField (cls : Option TempClass) (e : Nat) : Nat := if cls.any TempClass.cold then e / 4 else 0

/-! ### Grant fields (R30) -/

/-- Quantity less one, 256 taken as 255. -/
def grantQuantity (field : Byte) : Nat := min (field.toNat + 1) 255

/-- Slack clamped to -63..960. -/
def grantSlack (slack : BitVec 14) : Int := clampInt slack.toInt (-63) 960

/-- The due minute: the bench minute in force plus the clamped slack. -/
def grantDue (minute : Nat) (slack : BitVec 14) : Int := (minute : Int) + grantSlack slack

/-! ### Due order (R24) -/

/-- Due minute ascending, then arrival sequence ascending. -/
def dueBefore (a b : Line) : Bool := a.due < b.due || (a.due == b.due && a.arrival < b.arrival)

/-- Insert after every element it does not stand before. -/
def insertDue (x : Line) : List Line → List Line
  | [] => [x]
  | y :: ys => if dueBefore x y then x :: y :: ys else y :: insertDue x ys

/-- Lines in due order. -/
def sortDue : List Line → List Line
  | [] => []
  | x :: xs => insertDue x (sortDue xs)

/-! ### Codes (10 section 10.6, R174, R183) -/

def Mode.code : Mode → Nat
  | .closed => 0 | .opened => 1 | .closingSoft => 2 | .closingHard => 3

def classOfCode : Nat → Option TempClass
  | 1 => some .ambient
  | 2 => some .chilled
  | 3 => some .frozen
  | _ => none

def causeOfCode : Nat → Option OfferCause
  | 1 => some .infeed
  | 2 => some .release
  | 3 => some .relinquish
  | _ => none

def PortState.code : PortState → Nat
  | .vacant => 0 | .inbound => 1 | .presented => 2 | .releaseWait => 3 | .releasing => 4 | .faulted => 5

def ReleaseCause.code : ReleaseCause → Nat
  | .noLines => 1 | .spent => 2 | .closeHard => 3 | .orphan => 4 | .manual => 5

/-- Outcome codes of CLAIM_END (09 section 9.3); the other outcomes write no entry. -/
def ContestOutcome.code : ContestOutcome → Nat
  | .yielded => 1 | .lapsed => 2 | .relinquished => 3 | .lost => 0 | .withdrawn => 0 | .landed => 0

def FaultKind.code : FaultKind → Nat
  | .frameCheck => 1 | .frameForm => 2 | .txDrop => 3 | .readFail => 4 | .duplicateRead => 5 | .phaseSlip => 6
  | .phaseUnknownMerge => 7 | .divertMiss => 8 | .seatTimeout => 9

/-- Severity: degraded or notice (R174). -/
def FaultKind.degraded : FaultKind → Bool
  | .divertMiss => true
  | .seatTimeout => true
  | .frameCheck => false
  | .frameForm => false
  | .txDrop => false
  | .readFail => false
  | .duplicateRead => false
  | .phaseSlip => false
  | .phaseUnknownMerge => false

def ReplyOutcome.code : ReplyOutcome → Nat
  | .accepted => 0 | .malformed => 1 | .putRange => 2 | .putBusy => 3 | .classNotServed => 4 | .duplicateLine => 5
  | .orderTooLong => 6 | .tableFull => 7 | .benchClosed => 8 | .journalBound => 9 | .notFound => 10

def ModeAction.code : ModeAction → Nat
  | .opened => 1 | .closeSoft => 2 | .closeHard => 3

end Sys2Proof.Machine
end

