-- ==== Sys2Proof/Machine/Frames.lean ====
section
/-! DEFINITION. Frames as bytes (10 sections 10.2, 10.3, 10.6): the rank, the check, the bytes of every frame the bench sends, and
what a received frame's bytes say. -/

namespace Sys2Proof.Machine

/-! ### Bytes, most significant first -/

/-- The `n` bytes of a number, most significant first (10 section 10.6). -/
def beBytes : Nat → Nat → List Byte
  | 0, _ => []
  | n + 1, v => BitVec.ofNat 8 (v / 256 ^ n) :: beBytes n v

/-- The number that bytes hold, most significant first. -/
def beNat (bs : List Byte) : Nat := bs.foldl (fun a b => a * 256 + b.toNat) 0

/-- `n` bytes from position `at'`. -/
def sliceBytes (bs : List Byte) (at' n : Nat) : List Byte := (bs.drop at').take n

/-- The number in `n` bytes from position `at'`. -/
def fieldAt (bs : List Byte) (at' n : Nat) : Nat := beNat (sliceBytes bs at' n)

/-- The first `n` bytes, missing ones taken as 0 (R173). -/
def captureBytes (n : Nat) (bs : List Byte) : List Byte := (bs ++ List.replicate n 0).take n

/-! ### The check (R178; bit order DEDUCED, log 13) -/

/-- One bit of the CRC-16 with generator x^16 + x^15 + x^2 + 1. -/
def crcBit (c : BitVec 16) : BitVec 16 := if c.msb then (c <<< 1) ^^^ 0x8005#16 else c <<< 1

/-- `n` bits of the CRC. -/
def crcBits : Nat → BitVec 16 → BitVec 16
  | 0, c => c
  | n + 1, c => crcBits n (crcBit c)

/-- One byte of the CRC. -/
def crcByte (c : BitVec 16) (b : Byte) : BitVec 16 := crcBits 8 (c ^^^ (b.zeroExtend 16 <<< 8))

/-- The CRC-16 of header and payload, initial value FFFFh (R178). -/
def crc16 (bs : List Byte) : BitVec 16 := bs.foldl crcByte 0xFFFF#16

/-! ### Kinds, classes and ranks (R178) -/

/-- The class of a kind code; absent for a code that names no kind. -/
def kindClass : Nat → Option Nat
  | 1 => some 5
  | 2 => some 6
  | 3 => some 7
  | 4 => some 4
  | 5 => some 4
  | 6 => some 3
  | 7 => some 3
  | 8 => some 3
  | 9 => some 3
  | 10 => some 2
  | 11 => some 2
  | 12 => some 1
  | _ => none

/-- The kind code of a frame the bench sends. -/
def Payload.kind : Payload → Nat
  | .offer .. => 1
  | .bid _ => 2
  | .take .. => 3
  | .landed _ => 4
  | .reply _ => 10
  | .quiet _ => 11
  | .journal .. => 12

/-- The class of a frame the bench sends. -/
def Payload.cls (p : Payload) : Nat := (kindClass p.kind).getD 0

/-- The 35-bit rank as a number, the better rank the larger (R178). -/
def rankNumber (cls score dist src : Nat) : Nat := ((cls * 65536 + score) * 1024 + (1023 - dist)) * 64 + (63 - src)

/-- The rank of a frame. -/
def Frame.rank (f : Frame) : Nat := rankNumber f.payload.cls f.score f.dist f.src

/-! ### Payloads (10 section 10.6) -/

/-- The compartment code: 0, 1, 2 for k = 1, 2, 4; 3 names no k. -/
def compCode : Nat → Nat
  | 1 => 0
  | 2 => 1
  | 4 => 2
  | _ => 3

/-- One compartment: SKU and quantity. -/
def Compartment.bytes (c : Compartment) : List Byte := beBytes 3 c.sku.toNat ++ [c.qty]

/-- The OFFER payload. -/
def offerPayload (tote : ToteId) (slot : Nat) (cause : OfferCause) (cls : TempClass) (comps : List Compartment)
    (field : Nat) : List Byte :=
  beBytes 4 tote.toNat ++ beBytes 2 slot
    ++ beBytes 1 (cause.code * 64 + cls.code * 16 + compCode comps.length)
    ++ beBytes 2 field ++ comps.flatMap Compartment.bytes

/-- The first fault's fields of STATUS, 0 when absent. -/
def firstFaultBytes (o : Option FirstFault) : List Byte :=
  match o with
  | none => List.replicate 15 0
  | some f => beBytes 1 f.kind.code ++ beBytes 4 f.seconds ++ beBytes 2 f.place ++ captureBytes 8 f.bytes

/-- STATUS contents, REPLY bytes 3..34. -/
def StatusData.bytes (d : StatusData) : List Byte :=
  beBytes 1 ((if d.homed then 128 else 0) + d.mode.code) ++ beBytes 2 d.phase ++ beBytes 2 d.pitch
    ++ ((d.ports.map fun (p : PortState) => BitVec.ofNat 8 p.code) ++ List.replicate 4 7).take 4
    ++ beBytes 1 (d.laneCount * 16 + d.releaseCount) ++ beBytes 1 d.waiting ++ beBytes 1 d.reserved
    ++ beBytes 1 d.contests ++ beBytes 2 ((if d.bound then 32768 else 0) + d.wordsUsed)
    ++ firstFaultBytes d.first ++ beBytes 2 d.sticky.toNat

/-- The REPLY payload. -/
def Reply.bytes : Reply → List Byte
  | .grant order o => beBytes 1 6 ++ beBytes 1 0 ++ beBytes 1 o.code ++ beBytes 3 order.toNat
  | .cancel order o count pending =>
      beBytes 1 7 ++ beBytes 1 0 ++ beBytes 1 o.code ++ beBytes 3 order.toNat ++ beBytes 1 count
        ++ beBytes 1 (if pending then 1 else 0)
  | .fetch o => beBytes 1 8 ++ beBytes 1 0 ++ beBytes 1 o.code
  | .modeAction a o m => beBytes 1 9 ++ beBytes 1 a.code ++ beBytes 1 o.code ++ beBytes 1 m.code
  | .status o d => beBytes 1 9 ++ beBytes 1 4 ++ beBytes 1 o.code ++ d.bytes
  | .control a o => beBytes 1 9 ++ [a] ++ beBytes 1 o.code

/-- The payload bytes of every frame the bench sends. -/
def Payload.bytes : Payload → List Byte
  | .offer t slot cause cls comps field => offerPayload t slot cause cls comps field
  | .bid t => beBytes 4 t.toNat
  | .take t late => beBytes 4 t.toNat ++ beBytes 1 (if late then 1 else 0)
  | .landed t => beBytes 4 t.toNat
  | .reply r => r.bytes
  | .quiet m => beBytes 1 m.code
  | .journal first remaining count bound words =>
      beBytes 4 first.toNat ++ beBytes 2 remaining ++ beBytes 1 count ++ beBytes 1 (if bound then 1 else 0)
        ++ words.flatMap fun w => beBytes 4 w.toNat

/-- The 8-byte header: rank, kind, destination range, payload length. -/
def headerBytes (rank kind first last len : Nat) : List Byte :=
  beBytes 5 (rank * 32 + kind) ++ beBytes 1 first ++ beBytes 1 last ++ beBytes 1 len

/-- Header and payload of a frame. -/
def Frame.body (f : Frame) : List Byte :=
  headerBytes f.rank f.payload.kind f.first f.last f.payload.bytes.length ++ f.payload.bytes

/-- The frame as sent, with its check (R178). -/
def Frame.bytes (f : Frame) : List Byte := f.body ++ beBytes 2 (crc16 f.body).toNat

/-- The header and payload of a received OFFER, destination range 1..62 as benches send it (log 12). -/
def offerBody (o : OfferFrame) : List Byte :=
  Frame.body { score := 0, dist := 0, src := o.src, first := 1, last := 62,
               payload := .offer o.tote o.slot o.cause o.cls o.comps o.exposureField }

/-! ### Reception (R179, R180) -/

/-- What the bytes of a received frame come to. `bad…` are the discards of R179, `nothing` a kind no block takes (R180). -/
inductive Received where
  | badCheck
  | badForm
  | nothing
  | offer (o : OfferFrame)
  | bid (src score distance : Nat) (tote : ToteId)
  | take (src score distance : Nat) (tote : ToteId) (late : Bool)
  | landed (src : Nat) (tote : ToteId)
  | exit (src : Nat) (tote : ToteId)
  | grant (g : GrantFrame)
  | cancel (dest : Dest) (order : OrderId)
  | fetch (dest : Dest) (k : Byte)
  | modeAction (action : ModeAction) (dest : Dest)
  | status (dest : Dest)
  | clearFaults (dest : Dest) (mask : BitVec 16)
  | mark (dest : Dest) (count : Nat) (words : List Word)
  | malformedControl (dest : Dest) (action : Byte)
  deriving DecidableEq, Repr

/-- R179 step 1: the frame ends before its stated length has been received, or its CRC disagrees. DESIGN CHOICE, log 34: bytes after
the check of the stated length are not read. -/
def checkFails (bs : List Byte) : Bool :=
  if bs.length < 8 then true
  else
    let n := 8 + fieldAt bs 7 1 % 64
    if bs.length < n + 2 then true
    else (crc16 (bs.take n)).toNat != fieldAt bs n 2

/-- The `n` groups of `size` bytes from the start. -/
def groupsOf (size : Nat) : Nat → List Byte → List (List Byte)
  | 0, _ => []
  | n + 1, bs => bs.take size :: groupsOf size n (bs.drop size)

/-- A compartment of an OFFER payload. -/
def compOfBytes (bs : List Byte) : Compartment :=
  { sku := BitVec.ofNat 24 (fieldAt bs 0 3), qty := bs.getD 3 0 }

/-- A line of a GRANT payload. -/
def grantLineOfBytes (bs : List Byte) : GrantLine :=
  { lineNo := bs.getD 0 0, sku := BitVec.ofNat 24 (fieldAt bs 1 3), qtyField := bs.getD 4 0,
    cls := classOfCode (fieldAt bs 5 2 / 16384), slack := BitVec.ofNat 14 (fieldAt bs 5 2) }

/-- A payload byte, or the free value where the payload is too short to hold it (log 14). -/
def payloadByte (pay : List Byte) (n : Nat) : Byte := (pay[n]?).getD (Config.missingPayloadByte pay n)

/-- The order ID of a payload "as received" (R32). -/
def payloadOrder (pay : List Byte) : OrderId :=
  BitVec.ofNat 24 (beNat [payloadByte pay 0, payloadByte pay 1, payloadByte pay 2])

/-- The number of lines a GRANT payload's length holds: n for 4 + 7n bytes, none for any other length. -/
def grantHeld (len : Nat) : Nat := if 4 ≤ len ∧ (len - 4) % 7 = 0 then (len - 4) / 7 else 0

/-- A GRANT payload (R29 tests its length). -/
def grantOfBytes (d : Dest) (pay : List Byte) : GrantFrame :=
  { dest := d, order := payloadOrder pay, put := fieldAt pay 3 1 / 16, count := fieldAt pay 3 1 % 8 + 1,
    lines := (groupsOf 7 (grantHeld pay.length) (pay.drop 4)).map grantLineOfBytes }

/-- The count k that a compartment code names. -/
def compsOfCode : Nat → Option Nat
  | 0 => some 1
  | 1 => some 2
  | 2 => some 4
  | _ => none

/-- An OFFER payload: its form checks (R179) and its fields. `l` is the loop length. -/
def offerOfBytes (l src : Nat) (pay : List Byte) : Received :=
  let b6 := fieldAt pay 6 1
  match compsOfCode (b6 % 4), causeOfCode (b6 / 64), classOfCode (b6 / 16 % 4) with
  | some k, some cause, some cls =>
      if pay.length = 9 + 4 * k ∧ fieldAt pay 4 2 % 1024 < l then
        .offer { src := src, tote := BitVec.ofNat 32 (fieldAt pay 0 4), slot := fieldAt pay 4 2 % 1024, cause := cause,
                 cls := cls, comps := (groupsOf 4 k (pay.drop 9)).map compOfBytes,
                 exposureField := fieldAt pay 7 2 % 4096 }
      else .badForm
  | _, _, _ => .badForm

/-- A CONTROL payload (R183). -/
def controlOfBytes (d : Dest) (pay : List Byte) : Received :=
  let a := payloadByte pay 0
  let malformed := Received.malformedControl d a
  match pay.length, a.toNat with
  | 0, _ => malformed
  | n + 1, 1 => if n = 0 then .modeAction .opened d else malformed
  | n + 1, 2 => if n = 0 then .modeAction .closeSoft d else malformed
  | n + 1, 3 => if n = 0 then .modeAction .closeHard d else malformed
  | n + 1, 4 => if n = 0 then .status d else malformed
  | n + 1, 5 => if n = 2 then .clearFaults d (BitVec.ofNat 16 (fieldAt pay 1 2)) else malformed
  | n + 1, 6 =>
      let count := fieldAt pay 1 1 % 4 + 1
      if n = 1 + 4 * count then
        .mark d count ((groupsOf 4 count (pay.drop 2)).map fun w => BitVec.ofNat 32 (beNat w))
      else malformed
  | _, _ => malformed

/-- A payload of a kind with a fixed length is badly formed at any other length (R179). -/
def fixedLength (pay : List Byte) (n : Nat) (r : Received) : Received := if pay.length = n then r else .badForm

/-- What the payload of a frame of a known kind comes to (R179 form, R180 delivery). -/
def receivedOfPayload (l kind : Nat) (d : Dest) (score dist : Nat) (pay : List Byte) : Received :=
  let t : ToteId := BitVec.ofNat 32 (fieldAt pay 0 4)
  match kind with
  | 1 => offerOfBytes l d.src pay
  | 2 => fixedLength pay 4 (.bid d.src score dist t)
  | 3 => fixedLength pay 5 (.take d.src score dist t (fieldAt pay 4 1 % 2 == 1))
  | 4 => fixedLength pay 4 (.landed d.src t)
  | 5 => fixedLength pay 4 (.exit d.src t)
  | 6 => .grant (grantOfBytes d pay)
  | 7 => fixedLength pay 3 (.cancel d (payloadOrder pay))
  | 8 => fixedLength pay 1 (.fetch d (pay.getD 0 0))
  | 9 => controlOfBytes d pay
  | 11 => fixedLength pay 1 .nothing
  | _ => .nothing

/-- Reception of a frame's bytes by a bench on a loop of length `l`: check, then form, then delivery by kind (R179, R180). -/
def receiveBytes (l : Nat) (bs : List Byte) : Received :=
  if checkFails bs then .badCheck
  else
    let h := fieldAt bs 0 5
    let len := fieldAt bs 7 1 % 64
    let kind := h % 32
    let d : Dest := { src := 63 - h / 32 % 64, first := fieldAt bs 5 1 % 64, last := fieldAt bs 6 1 % 64 }
    if 48 < len then .badForm
    else if kindClass kind ≠ some (h / 2 ^ 37 % 8) then .badForm
    else receivedOfPayload l kind d (h / 2 ^ 21 % 65536) (1023 - h / 2 ^ 11 % 1024) (sliceBytes bs 8 len)

end Sys2Proof.Machine
end

