-- ==== Sys2Proof/Machine/Flags.lean ====
section
/-! DEFINITION. The Journal Unit's operations (09): entries as words, the format, the room test, the bound flag, removal of the
oldest entries, and the fault record. -/

namespace Sys2Proof.Machine

/-! ### Entries -/

/-- Note entries; every other kind is business (R164). -/
def EntryBody.isNote : EntryBody → Bool
  | .mode .. => true
  | .fault .. => true
  | .mark _ => true
  | .pick .. => false
  | .short .. => false
  | .landed .. => false
  | .released .. => false
  | .exposureSpent .. => false
  | .orderComplete .. => false
  | .putSwapped .. => false
  | .claimEnd .. => false

/-- Kind codes (R164). -/
def EntryBody.kind : EntryBody → Nat
  | .pick .. => 1
  | .short .. => 2
  | .landed .. => 3
  | .released .. => 4
  | .exposureSpent .. => 5
  | .orderComplete .. => 6
  | .putSwapped .. => 7
  | .claimEnd .. => 8
  | .mode .. => 16
  | .fault .. => 17
  | .mark _ => 18

/-- Body words of each kind (R164). -/
def EntryBody.size : EntryBody → Nat
  | .pick .. => 3
  | .short .. => 3
  | .landed .. => 2
  | .released .. => 3
  | .exposureSpent .. => 2
  | .orderComplete .. => 2
  | .putSwapped .. => 1
  | .claimEnd .. => 2
  | .mode .. => 1
  | .fault .. => 2
  | .mark ws => ws.length

/-- Order ID in bits 31..8 and a byte in bits 7..0. -/
def orderWord (order : OrderId) (low : Nat) : Word := BitVec.ofNat 32 (order.toNat * 256 + low)

/-- The bit of a flag at position `n`. -/
def flagBit (b : Bool) (n : Nat) : Nat := if b then 2 ^ n else 0

/-- The third word of PICK and SHORT. -/
def pickWord (q shortBy comp put : Nat) (emptied : Bool) : Word :=
  BitVec.ofNat 32 (q * 2 ^ 24 + shortBy * 2 ^ 16 + comp * 2 ^ 13 + put * 2 ^ 9 + flagBit emptied 8)

/-- The body words of an entry (09 section 9.3). -/
def EntryBody.words : EntryBody → List Word
  | .pick o n t q c p => [orderWord o n.toNat, t, pickWord q 0 c p false]
  | .short o n t q d c p e => [orderWord o n.toNat, t, pickWord q d c p e]
  | .landed t pos e score sat =>
      [t, BitVec.ofNat 32 (pos * 2 ^ 29 + flagBit sat 28 + e / 4 * 2 ^ 16 + score)]
  | .released t cause e qs =>
      [t.getD 0,
       BitVec.ofNat 32 (flagBit t.isNone 31 + (cause.map ReleaseCause.code).getD 0 * 2 ^ 24 + e / 4),
       BitVec.ofNat 32 (qs.getD 0 0 * 2 ^ 24 + qs.getD 1 0 * 2 ^ 16 + qs.getD 2 0 * 2 ^ 8 + qs.getD 3 0)]
  | .exposureSpent t n => [t, BitVec.ofNat 32 n]
  | .orderComplete o p done shorted cancelled =>
      [orderWord o p, BitVec.ofNat 32 (done * 2 ^ 24 + shorted * 2 ^ 16 + cancelled * 2 ^ 8)]
  | .putSwapped p o => [BitVec.ofNat 32 (p * 2 ^ 24 + o.toNat)]
  | .claimEnd t oc score => [t, BitVec.ofNat 32 (oc.code * 2 ^ 24 + score)]
  | .mode old new => [BitVec.ofNat 32 (old.code * 2 ^ 24 + new.code * 2 ^ 16)]
  | .fault k place detail => [BitVec.ofNat 32 (k.code * 2 ^ 24 + flagBit k.degraded 23 + place), detail]
  | .mark ws => ws

/-- An entry's length in words (R165). -/
def Entry.size (e : Entry) : Nat := (if e.delta.isSome then 1 else 2) + e.body.size

/-- The header word (09 section 9.3). -/
def Entry.header (e : Entry) : Word :=
  BitVec.ofNat 32 (e.body.kind * 2 ^ 27 + flagBit e.delta.isNone 26 + (e.size - 1) * 2 ^ 23 + e.delta.getD 0)

/-- The words of an entry: header, the seconds word of the extended format, body (R165). -/
def Entry.words (e : Entry) : List Word :=
  e.header :: (if e.delta.isSome then [] else [BitVec.ofNat 32 e.time]) ++ e.body.words

/-! ### The store -/

/-- Words used (R163). -/
def Journal.used (j : Journal) : Nat := (j.entries.map Entry.size).sum

/-- The free space (R163). -/
def Journal.free (j : Journal) : Nat := Config.journalWords - j.used

/-- The bound flag recomputed from the free space (R167). -/
def Journal.rebound (j : Journal) : Journal := { j with bound := decide (j.free < Config.journalReserve) }

/-- The format chosen at `now` (R165): the difference of the compact format, or none for the extended one. -/
def Journal.delta (j : Journal) (now : Nat) : Option Nat :=
  match j.lastTime with
  | none => none
  | some t => if t ≤ now ∧ now - t ≤ 255 then some (now - t) else none

/-- The entry that would be written at `now` (R166 step 1). -/
def Journal.entryAt (j : Journal) (now : Nat) (b : EntryBody) : Entry := { time := now, delta := j.delta now, body := b }

/-- The room test of a note entry (R164): at least the reserve stays free after it. -/
def Journal.roomFor (j : Journal) (e : Entry) : Bool := e.size + Config.journalReserve ≤ j.free

/-- Writing an entry (R166); a note entry without room is lost (R164). -/
def Journal.write (j : Journal) (now : Nat) (b : EntryBody) : Journal :=
  let e := j.entryAt now b
  if b.isNote && !j.roomFor e then j
  else Journal.rebound { j with entries := j.entries ++ [e], lastTime := some now }

/-- Removal of the `k` oldest entries (R171 steps 1 and 2); all of them when fewer are held. -/
def Journal.drop (j : Journal) (k : Nat) : Journal :=
  Journal.rebound { j with entries := j.entries.drop k, oldest := j.oldest + BitVec.ofNat 32 (min k j.entries.length) }

/-- How many of the oldest entries R169 removes so that `need` words are free. -/
def excessEntries (need : Nat) : List Entry → Nat
  | [] => 0
  | e :: es =>
      if need ≤ Config.journalWords - ((e :: es).map Entry.size).sum then 0 else excessEntries need es + 1

/-- The warm-reset journal (R169, R176): room for the orphans, last entry time absent, bound flag recomputed. -/
def Journal.afterWarm (j : Journal) (orphans : Nat) : Journal :=
  { j.drop (excessEntries (Config.orphanWords * orphans) j.entries) with lastTime := none }

/-- The leading entries that fit in `room` words (R171). -/
def fitting : Nat → List Entry → List Entry
  | _, [] => []
  | room, e :: es => if e.size ≤ room then e :: fitting (room - e.size) es else []

/-- Write an entry at the bench second now. -/
def State.write (s : State) (b : EntryBody) : State := { s with journal := s.journal.write s.now b }

/-! ### The fault record (R173) -/

/-- The sticky set with a kind added; bit n stands for kind code n. -/
def stickyWith (m : BitVec 16) (k : FaultKind) : BitVec 16 := m ||| BitVec.ofNat 16 (2 ^ k.code)

/-- A kind stands in a mask. -/
def maskHas (m : BitVec 16) (k : FaultKind) : Bool := m.getLsbD k.code

/-- R173 steps 1 and 2. -/
def FaultRecord.add (r : FaultRecord) (f : FirstFault) : FaultRecord :=
  { first := match r.first with
      | none => some f
      | some g => some g,
    sticky := stickyWith r.sticky f.kind }

/-- Recording a fault: sticky set, first fault, FAULT note (R173). `bytes` is empty for a kind without capture. -/
def State.recordFault (s : State) (k : FaultKind) (place : Nat) (detail : Word) (bytes : List Byte) : State :=
  State.write { s with faults := s.faults.add { kind := k, seconds := s.now, place := place, bytes := bytes } }
    (.fault k place detail)

/-- CLEAR_FAULTS on the record (R175). -/
def FaultRecord.clear (r : FaultRecord) (mask : BitVec 16) : FaultRecord :=
  { first := if r.first.any (fun f => maskHas mask f.kind) then none else r.first,
    sticky := r.sticky &&& ~~~mask }

end Sys2Proof.Machine
end

