-- ==== Sys2Proof/Machine/Ops.lean ====
section
/-! DEFINITION. The shared operations over the blocks' collections: transmit queue, order lines, contest table, roster, tote records,
ports, put positions, panel, and the completion of a close. -/

namespace Sys2Proof.Machine

/-! ### Transmit queue (10 section 10.4) -/

/-- Place a frame by rank, behind those of equal rank (R181). -/
def insertTx (e : TxEntry) : List TxEntry → List TxEntry
  | [] => [e]
  | x :: xs => if e.frame.rank ≤ x.frame.rank then x :: insertTx e xs else e :: x :: xs

/-- The lowest frame not in carriage, the last in queue order, and the queue without it (R181). -/
def splitLowest : List TxEntry → Option (TxEntry × List TxEntry)
  | [] => none
  | x :: xs =>
      match splitLowest xs with
      | some (d, rest) => some (d, x :: rest)
      | none => if x.inCarriage then none else some (x, xs)

/-- What queueing a frame does to the queue: the new queue and the dropped frame, if any (R181). -/
def enqueue (q : List TxEntry) (f : Frame) : List TxEntry × Option Frame :=
  let e : TxEntry := { frame := f, inCarriage := false, ownerEnded := false }
  if q.length < Config.queueCapacity then (insertTx e q, none)
  else
    match splitLowest q with
    | some (d, rest) => if d.frame.rank < f.rank then (insertTx e rest, some d.frame) else (q, some f)
    | none => (q, some f)

/-- TX_DROP with the dropped frame's class and kind as detail (R181, R174). -/
def State.recordDrop (s : State) (f : Frame) : State :=
  s.recordFault .txDrop 0 (BitVec.ofNat 32 (f.payload.cls * 2 ^ 24 + f.payload.kind * 2 ^ 16)) []

/-- Queue a frame (R181). -/
def State.queueFrame (s : State) (f : Frame) : State :=
  match enqueue s.queue f with
  | (q, none) => { s with queue := q }
  | (q, some d) => State.recordDrop { s with queue := q } d

/-- A frame of this bench with score and distance 0 (R178). -/
def State.plainFrame (s : State) (first last : Nat) (p : Payload) : Frame :=
  { score := 0, dist := 0, src := s.cfg.address, first := first, last := last, payload := p }

/-- A contest frame with the key in its rank, to all stations (R68, R178). -/
def keyFrame (k : Key) (p : Payload) : Frame :=
  { score := k.score, dist := k.dist, src := k.addr, first := 1, last := 62, payload := p }

/-- Queue an OFFER or LANDED, destination range 1..62 (R178). -/
def State.queueToAll (s : State) (p : Payload) : State := s.queueFrame (s.plainFrame 1 62 p)

/-- Queue a REPLY, QUIET or JOURNAL to one station (R178). -/
def State.queueTo (s : State) (station : Nat) (p : Payload) : State := s.queueFrame (s.plainFrame station station p)

/-- Queue a REPLY (R183). -/
def State.reply (s : State) (station : Nat) (r : Reply) : State := s.queueTo station (.reply r)

/-- The frame is the BID or TAKE of tote `t`. -/
def isContestFrame (t : ToteId) (f : Frame) : Bool :=
  match f.payload with
  | .bid u => t == u
  | .take u _ => t == u
  | .offer .. => false
  | .landed _ => false
  | .reply _ => false
  | .quiet _ => false
  | .journal .. => false

/-- The frame is a TAKE of tote `t`. -/
def isTakeFrame (t : ToteId) (f : Frame) : Bool :=
  match f.payload with
  | .take u _ => t == u
  | .bid _ => false
  | .offer .. => false
  | .landed _ => false
  | .reply _ => false
  | .quiet _ => false
  | .journal .. => false

/-- The record of `t` ends: its BID or TAKE leaves the queue unless it is in carriage, where it stays and is marked (R62 step 1,
R177, R70). DESIGN CHOICE, log 18: a marked frame that has lost arbitration since is removed like the others. -/
def withdrawFrames (t : ToteId) (q : List TxEntry) : List TxEntry :=
  (q.filter fun e => e.inCarriage || !isContestFrame t e.frame).map fun e =>
    if isContestFrame t e.frame then { e with ownerEnded := true } else e

/-- The entry in carriage. -/
def State.carried (s : State) : Option TxEntry := s.queue.find? (·.inCarriage)

/-- A BID or TAKE of `t`'s own record is in carriage (R155). -/
def State.frameInCarriage (s : State) (t : ToteId) : Bool :=
  s.queue.any fun e => e.inCarriage && !e.ownerEnded && isContestFrame t e.frame

/-- The queue without the frame in carriage. -/
def withoutCarried (q : List TxEntry) : List TxEntry := q.filter fun e => !e.inCarriage

/-! ### Order lines (02) -/

/-- A line's key. -/
def Line.hasKey (l : Line) (o : OrderId) (n : Byte) : Bool := l.order == o && l.lineNo == n

/-- A bound entry of a line. -/
def Line.isBound (l : Line) (b : BoundLine) : Bool := l.hasKey b.order b.lineNo

/-- The record of a bound line. -/
def State.lineOf (s : State) (b : BoundLine) : Option Line := s.lines.find? (·.isBound b)

/-- The state of a bound line's record is `st`. -/
def State.boundIn (s : State) (st : LineState) (b : BoundLine) : Bool := (s.lineOf b).any (fun l => l.state == st)

/-- A line back in WAITING, bound to nothing (R26). -/
def Line.toWaiting (l : Line) : Line := { l with state := .waiting, binding := none }

/-- Return the lines of a list to WAITING (R26, R62 step 2). -/
def returnLines (bs : List BoundLine) (ls : List Line) : List Line :=
  ls.map fun l => if bs.any l.isBound then l.toWaiting else l

/-- Bind the lines of a list in a state to a record (R26). -/
def bindLines (bs : List BoundLine) (st : LineState) (b : Binding) (ls : List Line) : List Line :=
  ls.map fun l => if bs.any l.isBound then { l with state := st, binding := some b } else l

/-- Apply `f` to the record of one line. -/
def State.updLine (s : State) (o : OrderId) (n : Byte) (f : Line → Line) : State :=
  { s with lines := s.lines.map fun l => if l.hasKey o n then f l else l }

/-- Lines in a state. -/
def State.countLines (s : State) (st : LineState) : Nat := s.lines.countP (fun l => l.state == st)

/-- A bound line stands before another in due order (R24). -/
def State.boundBefore (s : State) (a b : BoundLine) : Bool :=
  match s.lineOf a, s.lineOf b with
  | some x, some y => dueBefore x y
  | _, _ => false

/-- Insert a bound line at its place in due order (R24). -/
def State.insertBound (s : State) (x : BoundLine) : List BoundLine → List BoundLine
  | [] => [x]
  | y :: ys => if s.boundBefore x y then x :: y :: ys else y :: s.insertBound x ys

/-- Add bound lines to a list, each at its place in due order (R24, R57). -/
def State.mergeBound (s : State) (new old : List BoundLine) : List BoundLine :=
  new.foldl (fun acc x => s.insertBound x acc) old

/-! ### Contest table and roster (04) -/

/-- The contest record of a tote. -/
def State.contestOf (s : State) (t : ToteId) : Option Contest := s.contests.find? (fun c => c.tote == t)

/-- Apply `f` to the contest record of a tote. -/
def State.updContest (s : State) (t : ToteId) (f : Contest → Contest) : State :=
  { s with contests := s.contests.map fun c => if c.tote == t then f c else c }

/-- CLAIMED, in either sub-state (R60). -/
def ContestState.claimed : ContestState → Bool
  | .awaitingSlot => true
  | .lastChance => true
  | .bidQueued => false
  | .bidSent => false
  | .won => false
  | .diverting => false

/-- The own TAKE of a record in this state had been carried (R83). -/
def ContestState.takeCarried : ContestState → Bool
  | .awaitingSlot => true
  | .lastChance => true
  | .diverting => true
  | .bidQueued => false
  | .bidSent => false
  | .won => false

/-- The roster entry of a tote. -/
def State.rosterOf (s : State) (t : ToteId) : Option RosterEntry := s.roster.find? (fun r => r.tote == t)

/-- Apply `f` to the roster entry of a tote. -/
def State.updRoster (s : State) (t : ToteId) (f : RosterEntry → RosterEntry) : State :=
  { s with roster := s.roster.map fun r => if r.tote == t then f r else r }

/-! ### Tote records and ports (05, 06) -/

/-- The record of `t`. -/
def Tote.isId (x : Tote) (t : ToteId) : Bool := x.id == some t

/-- A CHILLED or FROZEN record whose exposure remaining is 0 (R110). -/
def Tote.spent (x : Tote) : Bool := x.cls.any TempClass.cold && x.exposure == some 0

/-- An orphan made at a reset (R91). -/
def Tote.newOrphan : Tote :=
  { id := none, cls := none, comps := [], exposure := none, landed := 0, bound := [], cause := none, spentTaken := false }

/-- Apply `f` to every tote record, wherever it stands. -/
def Floor.mapTotes (fl : Floor) (f : Tote → Tote) : Floor :=
  { fl with lane := fl.lane.map f, ports := fl.ports.map (fun p => { p with tote := p.tote.map f }),
            releaseLane := fl.releaseLane.map (Option.map f) }

/-- Apply `f` to the record of `t`. -/
def State.updTote (s : State) (t : ToteId) (f : Tote → Tote) : State :=
  { s with floor := s.floor.mapTotes fun x => if x.isId t then f x else x }

/-- The held records: the intake lane from its head, then the ports in number order (R88). -/
def Floor.heldTotes (fl : Floor) : List Tote := fl.lane ++ fl.ports.filterMap (·.tote)

/-- Every tote record (R87). -/
def Floor.allTotes (fl : Floor) : List Tote := fl.heldTotes ++ fl.releaseLane.filterMap id

/-- The held count (R119). -/
def Floor.heldCount (fl : Floor) : Nat := fl.heldTotes.length

/-- The release-lane drive runs while the release-lane order holds an entry (R112). -/
def State.releaseDrive (s : State) : Bool := !s.floor.releaseLane.isEmpty

/-- The Tote Store holds a record for `t` (R66). -/
def State.toteStands (s : State) (t : ToteId) : Bool := s.floor.allTotes.any (·.isId t)

/-- The committed count (R46, R61). -/
def State.committed (s : State) : Nat := s.floor.heldCount + s.contests.length

/-- A configured port. -/
def Floor.port (fl : Floor) (p : Nat) : Option Port := fl.ports.find? (fun q => q.num == p)

/-- Apply `f` to one port. -/
def Floor.updPort (fl : Floor) (p : Nat) (f : Port → Port) : Floor :=
  { fl with ports := fl.ports.map fun q => if q.num == p then f q else q }

/-- Apply `f` to one port. -/
def State.updPort (s : State) (p : Nat) (f : Port → Port) : State := { s with floor := s.floor.updPort p f }

/-- The tote at a PRESENTED port. -/
def Floor.presentedTote (fl : Floor) (p : Nat) : Option Tote :=
  (fl.port p).bind fun q => if q.state == .presented then q.tote else none

/-- The port whose record is that of `t`. -/
def Floor.portOfTote (fl : Floor) (t : ToteId) : Option Nat :=
  (fl.ports.find? fun q => q.tote.any (·.isId t)).map (·.num)

/-- A port made VACANT; its seat occupancy and stroke counts stay (R107, R113, R114). -/
def Port.vacate (q : Port) : Port := { q with state := .vacant, tote := none, seatTimer := none }

/-- The four quantity bytes of RELEASED: compartments 1..k, 0 beyond (R99). -/
def Tote.quantities (x : Tote) : List Nat := ((x.comps.map ToteComp.qty) ++ List.replicate 4 0).take 4

/-- The RELEASED entry of a record (R99). -/
def Tote.releasedEntry (x : Tote) : EntryBody := .released x.id x.cause (x.exposure.getD 0) x.quantities

/-! ### Put positions (02) and panel (07) -/

/-- A configured put position. -/
def State.put (s : State) (p : Nat) : Option Put := s.puts.find? (fun q => q.num == p)

/-- Apply `f` to one put position. -/
def State.updPut (s : State) (p : Nat) (f : Put → Put) : State :=
  { s with puts := s.puts.map fun q => if q.num == p then f q else q }

/-- The put position is OPEN. -/
def State.putOpen (s : State) (p : Nat) : Bool := (s.put p).any (fun q => q.state == .opened)

/-- Set the light and display of one port. -/
def Panel.setPort (x : Panel) (p : Nat) (lit : Bool) (d : Option Nat) : Panel :=
  { x with ports := x.ports.map fun q => if q.num == p then { q with lit := lit, display := d } else q }

/-- Set the light of one put. -/
def Panel.setPut (x : Panel) (p : Nat) (l : PutLight) : Panel :=
  { x with puts := x.puts.map fun q => if q.num == p then { q with light := l } else q }

/-- The task ends: lights off, display blank, task record absent (R135 step 1, R138 step 1). -/
def Panel.endTask (x : Panel) (t : Task) : Panel :=
  { (x.setPort t.port false none).setPut t.put .off with task := none }

/-! ### Routing (06 section 6.1) -/

/-- The lowest-numbered VACANT port whose seat sensor reads empty (R102). -/
def Floor.routable (fl : Floor) : Option Port := fl.ports.find? (fun q => q.state == .vacant && !q.occupied)

/-- R102 once: the head of the lane to that port, INBOUND, its seat timer to expire at `deadline`. -/
def Floor.routeHead (fl : Floor) (deadline : Nat) : Floor :=
  match fl.lane, fl.routable with
  | t :: rest, some p =>
      { fl with lane := rest }.updPort p.num fun q =>
        { q with state := .inbound, tote := some t, seatTimer := some deadline, routerStrokes := q.routerStrokes + 1 }
  | _, _ => fl

/-- Routing tested again until it moves nothing: at most once for each port (R102). -/
def Floor.routeUpTo : Nat → Nat → Floor → Floor
  | 0, _, fl => fl
  | n + 1, deadline, fl => Floor.routeUpTo n deadline (fl.routeHead deadline)

/-- Routing of the lane head is tested (R102). -/
def State.route (s : State) : State :=
  { s with floor := s.floor.routeUpTo s.floor.ports.length (s.ms + 1000 * s.cfg.seatTimeout) }

/-! ### Completion of a close (08 section 8.5) -/

/-- CLOSING_SOFT or CLOSING_HARD. -/
def Mode.closing : Mode → Bool
  | .closingSoft => true
  | .closingHard => true
  | .closed => false
  | .opened => false

/-- The conditions of R156. -/
def State.closeComplete (s : State) : Bool :=
  s.mode.closing && s.floor.heldTotes.isEmpty && s.contests.isEmpty && s.floor.releaseLane.isEmpty

/-- QUIET to the pending requester (R157). -/
def State.queueQuiet (s : State) : State :=
  match s.requester with
  | none => s
  | some r => s.queueTo r (.quiet .closed)

/-- The steps of a completion (R156). -/
def State.completeClose (s : State) : State :=
  let s1 := State.write { s with mode := .closed } (.mode s.mode .closed)
  { s1.queueQuiet with requester := none }

/-- The completion test (R156); within the entry steps of a close it waits for their end (R151, log 15). -/
def State.completionTest (s : State) : State :=
  if s.closeComplete && !s.closeEntry then s.completeClose else s

end Sys2Proof.Machine
end

