-- ==== Sys2Proof/Machine/Scoring.lean ====
section
/-! DEFINITION. The Scoring Unit (03): candidate lines, budgets, allocation in due order, the lanes, keys. -/

namespace Sys2Proof.Machine

/-- The first compartment, from 1, that holds a SKU (R44, R45). -/
def firstComp (skus : List Sku) (k : Sku) : Option Nat := (skus.findIdx? (· == k)).map (· + 1)

/-- The candidate lines in due order, each with its compartment (R45). -/
def State.candidates (s : State) (cls : TempClass) (skus : List Sku) : List (Line × Nat) :=
  (sortDue (s.lines.filter fun l => l.state == .waiting && l.cls == cls)).filterMap fun l =>
    (firstComp skus l.sku).map fun c => (l, c)

/-- The urgency of a line (R52). -/
def urgency (minute : Nat) (due : Int) : Nat := (clampInt (32 - (due - (minute : Int))) 1 63).toNat

/-- The running state of an allocation: working available quantities, lanes, listed lines (R51, R53). -/
structure Alloc where
  avail : List Nat
  weight : Nat
  time : Nat
  listed : List BoundLine
  deriving DecidableEq, Repr

/-- The quantities that do not change during an allocation: the budget, none for AMBIENT, and the times of R51. -/
structure AllocRule where
  budget : Option Int
  tLine : Nat
  tUnit : Nat
  minute : Nat
  deriving DecidableEq, Repr

/-- The time of `m` units of one line (R51 step 2). -/
def AllocRule.timeOf (r : AllocRule) (m : Nat) : Nat := r.tLine + m * r.tUnit

/-- The budget test fails: the running total plus `t` exceeds B (R51 step 3). -/
def AllocRule.over (r : AllocRule) (total t : Nat) : Bool := r.budget.any fun b => decide (b < ((total + t : Nat) : Int))

/-- Allocation over the candidates in due order (R51): a line without units is skipped, a line over the budget stops it. -/
def allocate (r : AllocRule) : List (Line × Nat) → Alloc → Alloc
  | [], a => a
  | (l, c) :: rest, a =>
      let m := min (l.requested - l.picked) (a.avail.getD (c - 1) 0)
      if m = 0 then allocate r rest a
      else if r.over a.time (r.timeOf m) then a
      else
        allocate r rest
          { avail := a.avail.modify (c - 1) (· - m), weight := a.weight + urgency r.minute l.due * m,
            time := a.time + r.timeOf m,
            listed := a.listed ++ [{ order := l.order, lineNo := l.lineNo, comp := c, units := m }] }

/-- One computation from cleared lanes; with B ≤ 0 no line is taken (R49, R50, R51). -/
def State.compute (s : State) (cls : TempClass) (skus : List Sku) (avail : List Nat) (budget : Option Int) : Alloc :=
  let start : Alloc := { avail := avail, weight := 0, time := 0, listed := [] }
  if budget.any (fun b => decide (b ≤ 0)) then start
  else
    allocate { budget := budget, tLine := s.cfg.tLine, tUnit := s.cfg.tUnit, minute := s.minute }
      (s.candidates cls skus) start

/-- The score: the weight lane, or 65535 above that (R53). -/
def Alloc.score (a : Alloc) : Nat := min a.weight 65535

/-- The saturated flag (R53). -/
def Alloc.saturated (a : Alloc) : Bool := decide (65535 < a.weight)

/-- The lanes as a computation leaves them (log 25). -/
def Alloc.lanes (a : Alloc) : Lanes := { weight := a.weight, time := a.time }

/-- The time in seconds of a list of bound lines: T_line each and T_unit for each unit (R48, R50). -/
def boundTime (tLine tUnit : Nat) (bs : List BoundLine) : Nat :=
  tLine * bs.length + tUnit * (bs.map (·.units)).sum

/-- The backlog Q (R48). -/
def State.backlog (s : State) : Nat :=
  min ((s.floor.heldTotes.map fun t => boundTime s.cfg.tLine s.cfg.tUnit t.bound).sum) 65535

/-- travel = ceil(d × P / 1000) (R49). -/
def State.travel (s : State) (d : Nat) : Nat := (d * s.pitch + 999) / 1000

/-- Eligibility (R46). `late` leaves out the settle-margin test. -/
def State.eligible (s : State) (cls : TempClass) (d : Nat) (late : Bool) : Bool :=
  s.tracker.homed && s.mode == .opened && !s.journal.bound && s.cfg.served.has cls
    && decide (s.committed < s.cfg.places) && (late || decide (s.cfg.settle ≤ d))

/-- What a bid-form computation is asked about: the tote's class and compartments, its exposure in seconds, its distance
(R47), and whether it is a late take. -/
structure BidQuery where
  cls : TempClass
  comps : List Compartment
  exposure : Nat
  dist : Nat
  late : Bool
  deriving DecidableEq, Repr

/-- The bid-form budget (R49). -/
def State.bidBudget (s : State) (q : BidQuery) : Option Int :=
  if q.cls.cold then some ((q.exposure : Int) - (s.travel q.dist : Int) - (s.backlog : Int)) else none

/-- The bid-form allocation (R44, R51), made only for an eligible bench. -/
def State.bidForm (s : State) (q : BidQuery) : Alloc :=
  if s.eligible q.cls q.dist q.late then
    s.compute q.cls (q.comps.map (·.sku)) (q.comps.map (·.qty.toNat)) (s.bidBudget q)
  else { avail := [], weight := 0, time := 0, listed := [] }

/-- The key of a bid-form result (R54). -/
def State.keyOf (s : State) (a : Alloc) (d : Nat) : Key := { score := a.score, dist := d, addr := s.cfg.address }

/-- Free quantity of compartment `c` of a tote record: its quantity remaining less the units allocated on it; 0 when emptied
(R44). -/
def Tote.free (t : Tote) (c : Nat) (x : ToteComp) : Nat :=
  if x.emptied then 0 else x.qty - ((t.bound.filter (fun b => b.comp == c)).map (·.units)).sum

/-- Free quantities of all compartments, in order (R44). -/
def Tote.available (t : Tote) : List Nat := t.comps.mapIdx fun i x => t.free (i + 1) x

/-- The bench-form budget (R50). -/
def State.benchBudget (s : State) (t : Tote) : Option Int :=
  if t.cls.any TempClass.cold then
    some (((t.exposure.getD 0 : Nat) : Int) - (boundTime s.cfg.tLine s.cfg.tUnit t.bound : Int))
  else none

/-- The bench-form allocation on a tote record (R42, R44, R50, R51); an orphan has no class and no candidate lines. -/
def State.benchForm (s : State) (t : Tote) : Alloc :=
  match t.cls with
  | none => { avail := [], weight := 0, time := 0, listed := [] }
  | some cls => s.compute cls (t.comps.map (·.sku)) t.available (s.benchBudget t)

end Sys2Proof.Machine
end

