-- ==== Sys2Proof/Machine/Sequencing.lean ====
section
/-! DEFINITION. What many events share on the bench floor: the task choice (07 section 7.2), release-lane room (06 section 6.6),
the release test (06 section 6.5), the allocation pass (03 section 3.8), and the order-complete check (02 R39). -/

namespace Sys2Proof.Machine

/-! ### Task choice -/

/-- A line of a PRESENTED tote's list is taskable (R124). -/
def State.taskable (s : State) (t : Tote) (b : BoundLine) : Bool :=
  (s.lineOf b).any (fun l => l.state == .reserved && s.putOpen l.put)
    && (!t.cls.any TempClass.cold || decide (0 < t.exposure.getD 0))

/-- The tote has a taskable line. -/
def State.hasTaskable (s : State) (t : Tote) : Bool := t.bound.any (s.taskable t)

/-- Task starts are permitted (R125). -/
def State.startsPermitted (s : State) : Bool :=
  s.panel.task.isNone && (s.mode == .opened || s.mode == .closingSoft) && !s.journal.bound && s.image.isSome

/-- The totes at PRESENTED ports with their ports, in presentation order (R108). -/
def State.presentedTotes (s : State) : List (Nat × Tote) :=
  s.floor.presentation.filterMap fun p => (s.floor.presentedTote p).map fun t => (p, t)

/-- A tote within its exposure warning: 0 < E ≤ E_warn (R127 step 1). -/
def State.warned (s : State) (t : Tote) : Bool :=
  t.cls.any TempClass.cold && decide (0 < t.exposure.getD 0) && decide (t.exposure.getD 0 ≤ s.cfg.eWarn)

/-- The element of smallest exposure, the earliest among equals (R127 step 1). -/
def leastExposed : List (Nat × Tote) → Option (Nat × Tote)
  | [] => none
  | x :: xs =>
      match leastExposed xs with
      | none => some x
      | some y => if y.2.exposure.getD 0 < x.2.exposure.getD 0 then some y else some x

/-- The tote that a choice selects (R127 steps 1 and 2). -/
def State.chosenTote (s : State) : Option (Nat × Tote) :=
  let ready := s.presentedTotes.filter fun x => s.hasTaskable x.2
  match leastExposed (ready.filter fun x => s.warned x.2) with
  | some x => some x
  | none => ready.head?

/-- Light a task: record, line ACTIVE, port light and display, put light (R128). -/
def State.lightTask (s : State) (p : Nat) (t : ToteId) (b : BoundLine) (l : Line) : State :=
  { s.updLine b.order b.lineNo (fun x => { x with state := .active }) with
    panel :=
      { (s.panel.setPort p true (some b.units)).setPut l.put .lit with
        task := some { tote := t, port := p, order := b.order, lineNo := b.lineNo, put := l.put, comp := b.comp,
                       units := b.units, display := b.units } } }

/-- The task choice (R126, R127). -/
def State.taskChoice (s : State) : State :=
  if s.startsPermitted then
    match s.chosenTote with
    | none => s
    | some (p, t) =>
        match t.id, t.bound.find? (s.taskable t) with
        | some tid, some b =>
            match s.lineOf b with
            | some l => s.lightTask p tid b l
            | none => s
        | _, _ => s
  else s

/-! ### Release-lane room -/

/-- The release lane has room (R113). -/
def State.hasRoom (s : State) : Bool :=
  decide (s.floor.releaseLane.length + s.floor.ports.countP (fun q => q.state == .releasing) < Config.releaseLanePlaces)

/-- A port granted room with its seat empty: RELEASED entry, record removed, port VACANT, Mode Control told, routing
(R113 step 3). -/
def State.removeAtGrant (s : State) (q : Port) : State :=
  match q.tote with
  | none => s.updPort q.num Port.vacate
  | some t => (((s.write t.releasedEntry).updPort q.num Port.vacate).completionTest).route

/-- A port granted room (R113 steps 2 and 3). -/
def State.grantTo (s : State) (p : Nat) : State :=
  match s.floor.port p with
  | none => s
  | some q =>
      if q.occupied then
        s.updPort p fun x => { x with state := .releasing, releaseStrokes := x.releaseStrokes + 1 }
      else s.removeAtGrant q

/-- The head of the release-wait order is granted room if the lane has it (R113). -/
def State.grantHead (s : State) : State :=
  match s.floor.releaseWait with
  | [] => s
  | p :: rest =>
      if s.hasRoom then State.grantTo { s with floor := { s.floor with releaseWait := rest } } p else s

/-- Granting tested again after each grant (R113). -/
def State.grantUpTo : Nat → State → State
  | 0, s => s
  | n + 1, s => State.grantUpTo n s.grantHead

/-- Room is tested (R113). -/
def State.grantRoom (s : State) : State := State.grantUpTo s.floor.releaseWait.length s

/-! ### Release test -/

/-- A line of the tote's list is ACTIVE: a task is lit on it (R110). -/
def State.litOn (s : State) (t : Tote) : Bool := t.bound.any (s.boundIn .active)

/-- The first cause that applies (R110). -/
def State.releaseCause (s : State) (t : Tote) (afterPass : Bool) : Option ReleaseCause :=
  if t.id.isNone then some .orphan
  else if t.spent then some .spent
  else if s.mode == .closingHard then some .closeHard
  else if t.bound.isEmpty && afterPass then some .noLines
  else none

/-- The steps of R111 for the port of a tote. -/
def State.toReleaseWait (s : State) (p : Nat) (t : Tote) (cause : ReleaseCause) : State :=
  State.grantRoom
    { s with
      lines := returnLines (t.bound.filter (s.boundIn .reserved)) s.lines
      floor :=
        { s.floor.updPort p (fun q =>
            { q with state := .releaseWait, tote := q.tote.map fun x => { x with cause := some cause, bound := [] } }) with
          presentation := s.floor.presentation.filter (· != p)
          releaseWait := s.floor.releaseWait ++ [p] } }

/-- Steps 1 of R57: a bench-form computation applied to the tote at port `p`. -/
def State.bindPass (s : State) (p : Nat) (t : Tote) : State :=
  let a := s.benchForm t
  match t.id with
  | none => { s with lanes := a.lanes }
  | some tid =>
      { s with
        lanes := a.lanes
        lines := bindLines a.listed .reserved (.tote tid) s.lines
        floor := s.floor.updPort p fun q =>
          { q with tote := q.tote.map fun x => { x with bound := s.mergeBound a.listed x.bound } } }

/-- Inside the entry steps of a hard close a pass only binds: the bench-floor steps that end them test every PRESENTED tote (R153,
R154 step 1; log 15). -/
def State.testsWait (s : State) : Bool := s.closeEntry && s.mode == .closingHard

/-- The release test after an allocation pass on the tote at port `p` (R109, R110). -/
def State.testAfterPass (s : State) (p : Nat) : State :=
  match s.floor.presentedTote p with
  | none => s
  | some t =>
      if s.testsWait || s.litOn t then s
      else
        match s.releaseCause t true with
        | some c => s.toReleaseWait p t c
        | none => s

/-- An allocation pass on the tote at port `p`: binding, report and release test, task choice (R57). -/
def State.allocationPass (s : State) (p : Nat) : State :=
  match s.floor.presentedTote p with
  | none => s
  | some t =>
      let s1 := (s.bindPass p t).testAfterPass p
      if (s.benchForm t).listed.isEmpty then s1 else s1.taskChoice

/-- The release test on the tote at port `p` (R110): with no cause and no lines it asks for one pass. -/
def State.releaseTest (s : State) (p : Nat) : State :=
  match s.floor.presentedTote p with
  | none => s
  | some t =>
      if s.litOn t then s
      else
        match s.releaseCause t false with
        | some c => s.toReleaseWait p t c
        | none => if t.bound.isEmpty then s.allocationPass p else s

/-- An allocation pass on each PRESENTED tote, in presentation order (R58). -/
def State.allPasses (s : State) : State := s.floor.presentation.foldl State.allocationPass s

/-- Passes called for when an event returned lines to WAITING (R58). -/
def State.passesIf (s : State) (returned : Bool) : State := if returned then s.allPasses else s

/-! ### Order-complete check -/

/-- DONE or CANCELLED (R39). -/
def LineState.final : LineState → Bool
  | .done => true
  | .cancelled => true
  | .waiting => false
  | .provisional => false
  | .reserved => false
  | .active => false

/-- The records of an order. -/
def State.orderLines (s : State) (o : OrderId) : List Line := s.lines.filter fun l => l.order == o

/-- The order-complete check (R39). -/
def State.orderCheck (s : State) (o : OrderId) : State :=
  match s.orderLines o with
  | [] => s
  | l :: ls =>
      let recs := l :: ls
      if recs.all (fun x => x.state.final) then
        let s1 := s.updPut l.put fun q => { q with state := .complete, emptied := !q.occupied }
        let s2 := s1.write
          (.orderComplete o l.put (recs.countP fun x => x.state == .done) (recs.countP (·.short))
            (recs.countP fun x => x.state == .cancelled))
        { s2 with lines := s2.lines.filter fun x => x.order != o }
      else s

end Sys2Proof.Machine
end

