-- ==== Sys2Proof/Machine/Contests.lean ====
section
/-! DEFINITION. The Contest Unit's shared operations (04): roster upkeep, endings, scoring an offer, late takes, slot passages,
landing (05 section 5.2) and the exposure-spent event (05 R96). -/

namespace Sys2Proof.Machine

/-! ### Endings (R62, R81, R83) -/

/-- A CLAIM_END is due: own TAKE carried and outcome YIELDED, LAPSED or RELINQUISHED (R83). -/
def claimEndDue (st : ContestState) (o : ContestOutcome) : Bool :=
  st.takeCarried && (o == .yielded || o == .lapsed || o == .relinquished)

/-- Exposure at offer less the seconds since the offer was heard, not below 0 (R75, R81, R90). -/
def exposureAfter (exposure heard now : Nat) : Nat := exposure - (now - heard)

/-- The relinquish OFFER of a record, naming `slot`, and the roster holder made absent (R65, R81). -/
def State.reoffer (s : State) (c : Contest) (slot : Nat) : State :=
  (s.updRoster c.tote fun r => { r with holder := none }).queueToAll
    (.offer c.tote slot .relinquish c.cls c.comps (exposureField (some c.cls) (exposureAfter c.exposure c.heard s.now)))

/-- The steps of R62 for a record that ends other than LANDED. `slot` is the slot a relinquish OFFER names. -/
def State.endSteps (s : State) (c : Contest) (o : ContestOutcome) (slot : Nat) : State :=
  let s1 := { s with queue := withdrawFrames c.tote s.queue, lines := returnLines c.bound s.lines }
  let s2 := if claimEndDue c.state o then s1.write (.claimEnd c.tote o c.key.score) else s1
  let s3 := if o == .relinquished then s2.reoffer c slot else s2
  State.passesIf { s3 with contests := s3.contests.filter fun x => x.tote != c.tote } (!c.bound.isEmpty)

/-- A contest ends: the steps of R62, then the completion test (R156). -/
def State.endContest (s : State) (c : Contest) (o : ContestOutcome) (slot : Nat) : State :=
  (s.endSteps c o slot).completionTest

/-- R68: a BID or TAKE may be queued. -/
def State.mayContest (s : State) : Bool := s.tracker.homed && s.mode == .opened && !s.journal.bound

/-- Queue the record's TAKE (R68). -/
def State.queueTake (s : State) (c : Contest) : State := s.queueFrame (keyFrame c.key (.take c.tote c.late))

/-! ### Roster (R63 to R65) -/

/-- Make room in a full roster: the oldest entry without a holder goes, or else the oldest (R64). -/
def discardOldest (r : List RosterEntry) : List RosterEntry :=
  match r.findIdx? (·.holder.isNone) with
  | some i => r.eraseIdx i
  | none => r.drop 1

/-- The roster refreshed by an entry, at the newest end (R63, R64). -/
def refreshRoster (r : List RosterEntry) (e : RosterEntry) : List RosterEntry :=
  if r.any (fun x => x.tote == e.tote) then (r.filter fun x => x.tote != e.tote) ++ [e]
  else if r.length < Config.rosterCapacity then r ++ [e]
  else discardOldest r ++ [e]

/-- The roster entry an OFFER gives (R63). -/
def State.offerEntry (s : State) (o : OfferFrame) : RosterEntry :=
  { tote := o.tote, cls := o.cls, comps := o.comps, exposure := offerExposure o.cls o.exposureField, heard := s.now,
    closeAt := s.ms + s.cfg.roundMs, holder := none }

/-- Remove a tote from the roster (R65, R77). -/
def State.forget (s : State) (t : ToteId) : State := { s with roster := s.roster.filter fun r => r.tote != t }

/-! ### Offers (R66, R67) -/

/-- Bind the listed lines PROVISIONAL and enter the record (R67, R75). -/
def State.enter (s : State) (c : Contest) : State :=
  { s with lines := bindLines c.bound .provisional (.contest c.tote) s.lines, contests := s.contests ++ [c] }

/-- The query an OFFER makes (R44, R47, R49). -/
def State.offerQuery (s : State) (o : OfferFrame) : BidQuery :=
  { cls := o.cls, comps := o.comps, exposure := offerExposure o.cls o.exposureField, dist := s.distance o.slot, late := false }

/-- The record R67 makes from a result. -/
def State.offerRecord (s : State) (o : OfferFrame) (a : Alloc) : Contest :=
  { tote := o.tote, slot := o.slot, cls := o.cls, comps := o.comps, exposure := offerExposure o.cls o.exposureField,
    heard := s.now, key := s.keyOf a (s.distance o.slot), bestOther := none, state := .bidQueued,
    roundTimer := some (s.ms + s.cfg.roundMs), window := 0, readMark := false, bound := a.listed,
    saturated := a.saturated, late := false }

/-- Score an OFFER and, with a score of at least 1, make the record and queue its BID (R66, R67). -/
def State.scoreOffer (s : State) (o : OfferFrame) : State :=
  let a := s.bidForm (s.offerQuery o)
  let s1 := { s with lanes := a.lanes }
  if a.score = 0 then s1
  else
    let c := s.offerRecord o a
    (s1.enter c).queueFrame (keyFrame c.key (.bid c.tote))

/-- The OFFER's handling after the roster refresh, by the bench's own state for the tote (R66). -/
def State.handleOffer (s : State) (o : OfferFrame) : State :=
  if s.toteStands o.tote then s
  else
    match s.contestOf o.tote with
    | none => s.scoreOffer o
    | some c =>
        match c.state with
        | .diverting => s
        | .awaitingSlot | .lastChance =>
            if o.cause == .relinquish && o.src != s.cfg.address then s
            else (s.endContest c .lapsed c.slot).scoreOffer o
        | .bidQueued | .bidSent | .won => (s.endContest c .lost c.slot).scoreOffer o

/-- FRAME_FORM or FRAME_CHECK with the first 8 bytes captured and the first 4 as detail (R173, R174, R179). -/
def State.recordFrameFault (s : State) (k : FaultKind) (bs : List Byte) : State :=
  s.recordFault k 0 (BitVec.ofNat 32 (beNat (captureBytes 4 bs))) (captureBytes 8 bs)

/-- An OFFER received (R63, R66); its slot field at L or above, or a number of compartments that is not 1, 2 or 4, is a form
fault (R179). -/
def State.takeOffer (s : State) (o : OfferFrame) : State :=
  if s.cfg.loopLength ≤ o.slot || compCode o.comps.length == 3 then s.recordFrameFault .frameForm (offerBody o)
  else State.handleOffer { s with roster := refreshRoster s.roster (s.offerEntry o) } o

/-! ### BID, TAKE, LANDED, EXIT -/

/-- A BID received (R69, R84). -/
def State.takeBid (s : State) (k : Key) (t : ToteId) : State :=
  if k.addr == s.cfg.address then s
  else
    match s.contestOf t with
    | none => s
    | some c =>
        match c.state with
        | .bidQueued =>
            let best := betterKey c.bestOther k
            let s1 := s.updContest t fun x => { x with bestOther := some best }
            if k.beats c.key then s1.endContest { c with bestOther := some best } .withdrawn c.slot else s1
        | .bidSent => s.updContest t fun x => { x with bestOther := some (betterKey c.bestOther k) }
        | .won | .awaitingSlot | .lastChance | .diverting => s

/-- The roster holder set by a TAKE (R65). -/
def State.holdBy (s : State) (k : Key) (t : ToteId) : State :=
  s.updRoster t fun r => { r with holder := some (betterKey r.holder k) }

/-- A TAKE received (R65, R73, R84). -/
def State.takeTake (s : State) (k : Key) (t : ToteId) : State :=
  let s1 := s.holdBy k t
  if k.addr == s.cfg.address then s1
  else
    match s1.contestOf t with
    | none => s1
    | some c =>
        match c.state with
        | .bidQueued | .bidSent => s1.endContest c .lost c.slot
        | .won | .awaitingSlot | .lastChance => if k.beats c.key then s1.endContest c .yielded c.slot else s1
        | .diverting => s1

/-- The record of a tote that another bench landed, or that left the loop, ends (R80). -/
def State.endGone (s : State) (t : ToteId) : State :=
  match s.contestOf t with
  | none => s
  | some c =>
      match c.state with
      | .bidQueued | .bidSent | .won => s.endContest c .lost c.slot
      | .awaitingSlot | .lastChance => s.endContest c .lapsed c.slot
      | .diverting => s

/-- A LANDED received (R65, R80, R84). -/
def State.takeLanded (s : State) (src : Nat) (t : ToteId) : State :=
  let s1 := s.forget t
  if src == s.cfg.address then s1 else s1.endGone t

/-- An EXIT received from any station (R65, R80). -/
def State.takeExit (s : State) (t : ToteId) : State := (s.forget t).endGone t

/-! ### Round close and the own frames' carriage (R70 to R72) -/

/-- The round of `t`'s record closes (R71). -/
def State.closeRound (s : State) (c : Contest) : State :=
  match c.state with
  | .bidSent =>
      if beatsOpt c.bestOther c.key then s.endContest c .lost c.slot
      else if s.mayContest then
        State.queueTake (s.updContest c.tote fun x => { x with state := .won, roundTimer := none }) c
      else s.endContest c .lost c.slot
  | .bidQueued => s.endContest c .lost c.slot
  | .won | .awaitingSlot | .lastChance | .diverting => s

/-- The roster's round-close time for `t` has come (R63, log 3). -/
def State.roundOver (s : State) (t : ToteId) : State := s.updRoster t fun r => { r with closeAt := min r.closeAt s.ms }

/-- Round close of `t`: the expiry of its record's round timer (R71). -/
def State.expireRound (s : State) (t : ToteId) : State :=
  match s.contestOf t with
  | none => s
  | some c => if c.roundTimer.isSome then (s.roundOver t).closeRound c else s

/-- A WON record whose TAKE was dropped: queued again, or LOST (R72, R182). -/
def State.requeueTake (s : State) (t : ToteId) : State :=
  match s.contestOf t with
  | none => s
  | some c =>
      if c.state == .won && !s.queue.any (fun e => isTakeFrame t e.frame && !e.ownerEnded) then
        if s.mayContest then s.queueTake c else s.endContest c .lost c.slot
      else s

/-- Every dropped TAKE is tried again at a frame-carried event (R72). DESIGN CHOICE, log 32: in table order, after the owner's own
event. -/
def State.requeueTakes (s : State) : State := (s.contests.map (·.tote)).foldl State.requeueTake s

/-- The frame in carriage leaves the queue and passes through the receive path (R177; log 11). -/
def State.takeCarriage (s : State) (e : TxEntry) : State :=
  { s with queue := withoutCarried s.queue, received := some e.frame }

/-- The own BID of `t` has been carried (R70). -/
def State.ownBidCarried (s : State) (t : ToteId) : State :=
  match s.contestOf t with
  | none => s
  | some c => if c.state == .bidQueued then s.updContest t fun x => { x with state := .bidSent } else s

/-- A record whose TAKE has been carried (R72). -/
def Contest.asClaimed (c : Contest) : Contest := { c with state := .awaitingSlot, window := 0, readMark := false }

/-- The own TAKE of `t` has been carried: CLAIMED with its lines RESERVED, and at once RELINQUISHED with an empty list (R72) or in
CLOSING_HARD (R155). -/
def State.ownTakeCarried (s : State) (t : ToteId) : State :=
  match s.contestOf t with
  | none => s
  | some c =>
      if c.state == .won then
        let s1 := s.updContest t Contest.asClaimed
        let s2 := { s1 with lines := bindLines c.bound .reserved (.contest t) s1.lines }
        if c.bound.isEmpty || s.mode == .closingHard then s2.endContest c.asClaimed .relinquished c.slot else s2
      else s

/-! ### Reader, late takes, slot passages (R74, R75, R79) -/

/-- The late-take record (R75). -/
def State.lateRecord (s : State) (r : RosterEntry) (slot : Nat) (a : Alloc) : Contest :=
  { tote := r.tote, slot := slot, cls := r.cls, comps := r.comps, exposure := r.exposure, heard := r.heard,
    key := s.keyOf a s.cfg.depth, bestOther := none, state := .won, roundTimer := none, window := 0, readMark := false,
    bound := a.listed, saturated := a.saturated, late := true }

/-- The query of a late take: d = D, exposure less the seconds since the offer (R47, R49, R75). -/
def State.lateQuery (s : State) (r : RosterEntry) : BidQuery :=
  { cls := r.cls, comps := r.comps, exposure := exposureAfter r.exposure r.heard s.now, dist := s.cfg.depth, late := true }

/-- The late-take test (R75). -/
def State.lateTake (s : State) (t : ToteId) (slot : Nat) : State :=
  match s.rosterOf t with
  | none => s
  | some r =>
      if r.holder.isNone && decide (r.closeAt ≤ s.ms) then
        let a := s.bidForm (s.lateQuery r)
        let s1 := { s with lanes := a.lanes }
        if a.score = 0 then s1
        else
          let c := s.lateRecord r slot a
          (s1.enter c).queueTake c
      else s

/-- A reader report handed over (R74). -/
def State.handReport (s : State) (t : ToteId) (slot : Nat) : State :=
  match s.contestOf t with
  | some c => if c.state.claimed then s.updContest t fun x => { x with readMark := true } else s
  | none => if s.toteStands t then s else s.lateTake t slot

/-- What a slot passage does to one record, before the window test (R79). -/
def Contest.passage (slot : Nat) (c : Contest) : Contest :=
  match c.state with
  | .awaitingSlot => if c.slot = slot then { c with state := .lastChance, window := 0 } else c
  | .lastChance => if c.window < 2 then { c with window := c.window + 1 } else c
  | .bidQueued | .bidSent | .won | .diverting => c

/-- The lapse window has closed with no read (R79). -/
def Contest.lapseDue (c : Contest) : Bool := c.state == .lastChance && decide (2 ≤ c.window) && !c.readMark

/-- The record of `t` ends LAPSED if its window has closed with no read (R79). -/
def State.lapseIfDue (s : State) (t : ToteId) : State :=
  match s.contestOf t with
  | none => s
  | some c => if c.lapseDue then s.endContest c .lapsed c.slot else s

/-- A slot passage announced to the Contest Unit (R79). -/
def State.slotPassage (s : State) (slot : Nat) : State :=
  let s1 := { s with contests := s.contests.map (Contest.passage slot) }
  (s1.contests.map (·.tote)).foldl State.lapseIfDue s1

/-! ### Exposure spent (R96) -/

/-- The lines an exposure-spent event returns: the RESERVED ones (R96 step 1). -/
def State.spentLines (s : State) (x : Tote) : List BoundLine := x.bound.filter (s.boundIn .reserved)

/-- Steps 1 and 2 of R96 for a held record `x` named `t`: its RESERVED lines return, EXPOSURE_SPENT is written. -/
def State.spendRecord (s : State) (t : ToteId) (x : Tote) : State :=
  let back := s.spentLines x
  State.write
    { s.updTote t (fun y => { y with bound := y.bound.filter (fun b => !back.contains b), spentTaken := true }) with
      lines := returnLines back s.lines }
    (.exposureSpent t back.length)

/-- Step 3 of R96: the release test, when the tote stands at a port. -/
def State.spendRelease (s : State) (t : ToteId) : State :=
  match s.floor.portOfTote t with
  | some p => s.releaseTest p
  | none => s

/-- The exposure-spent event of a held record `x` named `t` (R96). -/
def State.spendTote (s : State) (t : ToteId) (x : Tote) : State :=
  ((s.spendRecord t x).spendRelease t).passesIf (!(s.spentLines x).isEmpty)

/-- The event is taken when a held record stands at 0 and has not taken it yet (R95, R96; log 21). -/
def State.spendIfDue (s : State) (t : ToteId) : State :=
  match s.floor.heldTotes.find? (·.isId t) with
  | none => s
  | some x => if x.spent && !x.spentTaken then s.spendTote t x else s

/-! ### Landing (R77, R89, R90) -/

/-- The tote record made at landing (R89, R90). -/
def Contest.toTote (c : Contest) (now : Nat) : Tote :=
  { id := some c.tote, cls := some c.cls,
    comps := c.comps.map fun x => { sku := x.sku, qty := x.qty.toNat, emptied := false },
    exposure := if c.cls.cold then some (exposureAfter c.exposure c.heard now) else none,
    landed := now, bound := c.bound, cause := none, spentTaken := false }

/-- Landing of a DIVERTING record: tote record, LANDED entry, roster, LANDED frame (R77), then the exposure-spent event of a tote
landed spent (R90), routing (R102) and the completion test (R156). -/
def State.land (s : State) (c : Contest) : State :=
  let x := c.toTote s.now
  let s1 := { s with
    contests := s.contests.filter fun y => y.tote != c.tote
    lines := bindLines c.bound .reserved (.tote c.tote) s.lines
    floor := { s.floor with lane := s.floor.lane ++ [x] } }
  let s2 := s1.write (.landed c.tote (s.floor.lane.length + 1) (x.exposure.getD 0) c.key.score c.saturated)
  let s3 := (s2.forget c.tote).queueToAll (.landed c.tote)
  ((s3.spendIfDue c.tote).route).completionTest

end Sys2Proof.Machine
end

