-- ==== Sys2Proof/Machine/Tracker.lean ====
section
/-! DEFINITION. The Slot Tracker's commands (01): pulses and advances, home marks, reader reports, the divert decision and
its miss, lane entry, and the close of a lapse window (04 R79). -/

namespace Sys2Proof.Machine

/-- A command taken while the bench takes events; otherwise nothing changes (R22, R187, log 10). -/
def taken (f : State → State) (s : State) : Host.Outcome State Fault Refusal := .next (whenLive f s)

/-- Change the Slot Tracker's state. -/
def State.updTracker (s : State) (f : Tracker → Tracker) : State := { s with tracker := f s.tracker }

/-! ### Home mark -/

/-- The slots of the approach queue and the landing watch from the phase in force (R8). -/
def State.relabel (s : State) : State :=
  s.updTracker fun x =>
    { x with
      approach := x.approach.map fun e =>
        { e with slot := subMod s.cfg.loopLength (s.cfg.reader + s.cfg.depth) (e.remaining + x.phase) }
      watch := x.watch.map fun e =>
        { e with slot := subMod s.cfg.loopLength (s.cfg.divertPoint + e.aged) x.phase } }

/-- The phase set to x_r, the slots recomputed, slot 0 announced (R7, R8). -/
def State.fixPhase (s : State) : State :=
  ((s.updTracker fun x => { x with phase := s.cfg.reader, homed := true }).relabel).slotPassage 0

/-- A home mark (R7, R8). -/
def State.homeMark (s : State) : State :=
  if s.tracker.homed then
    if s.tracker.phase = s.cfg.reader then s
    else (s.recordFault .phaseSlip s.readerSlot (BitVec.ofNat 32 s.tracker.phase) []).fixPhase
  else s.fixPhase

/-- HOME_MARK. -/
def execHomeMark (s : State) : Host.Outcome State Fault Refusal := taken State.homeMark s

/-! ### Reader report -/

/-- An approach entry at the tail for the slot at the reader (R11, R12). -/
def State.addApproach (s : State) (id : Option ToteId) : State :=
  s.updTracker fun x =>
    { x with approach := x.approach ++ [{ id := id, slot := s.readerSlot, remaining := s.cfg.depth }] }

/-- The first report of a window (R11 to R13). -/
def State.firstReport (s : State) (r : ReaderReport) : State :=
  match r with
  | .empty => s
  | .unreadable => (s.addApproach none).recordFault .readFail s.readerSlot 0 []
  | .tote t =>
      if s.tracker.approach.any (fun e => e.id == some t) then
        (s.addApproach none).recordFault .duplicateRead s.readerSlot t []
      else
        let s1 := s.addApproach (some t)
        if s.tracker.homed then s1.handReport t s.readerSlot else s1

/-- A reader report (R10): the first of a window sets the read flag and is acted on, a later one is discarded. -/
def State.readerReport (r : ReaderReport) (s : State) : State :=
  if s.tracker.readFlag then s else (s.updTracker fun x => { x with readFlag := true }).firstReport r

/-- READER_REPORT. -/
def execReaderReport (r : ReaderReport) (s : State) : Host.Outcome State Fault Refusal := taken (State.readerReport r) s

/-! ### Divert -/

/-- The tote on which the divert fires for an entry at the divert point (R16). -/
def State.divertTarget (s : State) (e : ApproachEntry) : Option ToteId :=
  e.id.filter fun t => s.tracker.homed && (s.contestOf t).any (fun c => c.state.claimed)

/-- The divert fires (R18, R76). -/
def State.fireDivert (s : State) (t : ToteId) (slot : Nat) : State :=
  (s.updContest t fun c => { c with state := .diverting }).updTracker fun x =>
    { x with watch := x.watch ++ [{ tote := t, slot := slot, aged := 0 }], divertStrokes := x.divertStrokes + 1 }

/-- The divert decision on the head of the approach queue when it stands at remaining 0 (R15, R16). -/
def State.divertHead (s : State) : State :=
  match s.tracker.approach with
  | [] => s
  | e :: rest =>
      if e.remaining = 0 then
        let s1 := s.updTracker fun x => { x with approach := rest }
        match s.divertTarget e with
        | none => s1
        | some t => s1.fireDivert t e.slot
      else s

/-- DIVERT: the decision where its trigger stands; the advance that brings an entry to 0 takes it itself (log 6). -/
def execDivert (s : State) : Host.Outcome State Fault Refusal := taken State.divertHead s

/-! ### Divert miss -/

/-- A miss handed to the Contest Unit with the slot of the carrier (R78). -/
def State.missTote (s : State) (t : ToteId) (slot : Nat) : State :=
  match s.contestOf t with
  | none => s
  | some c => if c.state == .diverting then s.endContest c .relinquished slot else s

/-- The head of the landing watch, when it has aged 2: removed, DIVERT_MISS recorded, the miss handed on (R20). -/
def State.missHead (s : State) : State :=
  match s.tracker.watch with
  | [] => s
  | e :: rest =>
      if 2 ≤ e.aged then
        ((s.updTracker fun x => { x with watch := rest }).recordFault .divertMiss e.slot e.tote []).missTote e.tote e.slot
      else s

/-- Misses from the head, at most `n` (R20). -/
def State.missUpTo : Nat → State → State
  | 0, s => s
  | n + 1, s => State.missUpTo n s.missHead

/-- DIVERT_MISS: the miss where its trigger stands; the advance that ages an entry to 2 takes it itself (log 6). -/
def execDivertMiss (s : State) : Host.Outcome State Fault Refusal := taken State.missHead s

/-- LAPSE_WINDOW_CLOSE: the lapse where its trigger stands; the slot passage that brings the count to 2 takes it itself
(R79, log 6). -/
def execLapseWindowClose (t : ToteId) (s : State) : Host.Outcome State Fault Refusal := taken (fun x => x.lapseIfDue t) s

/-! ### Advance (order of its parts: R4, R10, R20 and log 7) -/

/-- The read window of the leaving slot closes and a new one opens (R10). -/
def State.closeWindow (s : State) : State :=
  let s1 := if s.tracker.readFlag then s else s.recordFault .readFail s.readerSlot 0 []
  s1.updTracker fun x => { x with readFlag := false }

/-- The phase rises by 1 modulo L and, while HOMED, the slot now at the reader is announced (R4). -/
def State.movePhase (s : State) : State :=
  let s1 := s.updTracker fun x => { x with phase := (x.phase + 1) % s.cfg.loopLength }
  if s1.tracker.homed then s1.slotPassage s1.readerSlot else s1

/-- The landing watch ages, and entries that reach 2 are missed (R20). -/
def State.ageWatch (s : State) : State :=
  let s1 := s.updTracker fun x => { x with watch := x.watch.map fun e => { e with aged := e.aged + 1 } }
  State.missUpTo s1.tracker.watch.length s1

/-- The approach queue ages, and the entry at the divert point leaves it (R15). -/
def State.ageApproach (s : State) : State :=
  (s.updTracker fun x => { x with approach := x.approach.map fun e => { e with remaining := e.remaining - 1 } }).divertHead

/-- The history with one more interval, the 16 most recent kept (R5). -/
def addInterval (h : List Nat) (v : Nat) : List Nat := (h ++ [v]).drop (h.length + 1 - Config.historyLength)

/-- The interval since the previous advance is recorded (R5). -/
def State.recordInterval (s : State) : State :=
  s.updTracker fun x =>
    { x with
      history := match x.prevAdvance with
        | none => x.history
        | some p => addInterval x.history (min (s.ms - p) Config.intervalCap)
      prevAdvance := some s.ms }

/-- One advance (R4, R5, R10, R15, R20). -/
def State.advance (s : State) : State := s.closeWindow.movePhase.ageWatch.ageApproach.recordInterval

/-- The prescale count returns to 0 and the advance is taken (R3). -/
def State.fullCount (s : State) : State := (s.updTracker fun x => { x with prescale := 0 }).advance

/-- An encoder pulse (R3). -/
def State.encoderPulse (s : State) : State :=
  if s.cfg.prescale ≤ s.tracker.prescale + 1 then s.fullCount
  else s.updTracker fun x => { x with prescale := x.prescale + 1 }

/-- ENCODER_PULSE, with the advance inside it (log 5). -/
def execEncoderPulse (s : State) : Host.Outcome State Fault Refusal := taken State.encoderPulse s

/-- ADVANCE: the prescale count reaches N (log 5). -/
def execAdvance (s : State) : Host.Outcome State Fault Refusal := taken State.fullCount s

/-! ### Lane entry -/

/-- The landing of `t` is confirmed to the Contest Unit (R77). -/
def State.confirmLanding (s : State) (t : ToteId) : State :=
  match s.contestOf t with
  | none => s
  | some c => if c.state == .diverting then s.land c else s

/-- A lane entry (R19). -/
def State.laneEntry (s : State) : State :=
  match s.tracker.watch with
  | [] => s
  | e :: rest => (s.updTracker fun x => { x with watch := rest }).confirmLanding e.tote

/-- LANE_ENTRY. -/
def execLaneEntry (s : State) : Host.Outcome State Fault Refusal := taken State.laneEntry s

end Sys2Proof.Machine
end

