-- ==== Sys2Proof/Machine/Ports.lean ====
section
/-! DEFINITION. The Port Sequencer's commands (06): seat sensor reports, seats, port clears, seat timeouts, clear keys and merges. -/

namespace Sys2Proof.Machine

/-! ### Seat sensor -/

/-- The seat event of an INBOUND port (R104); the allocation pass makes the release test and the choice. -/
def State.seatTote (s : State) (p : Nat) : State :=
  State.allocationPass
    { s with
      floor :=
        { s.floor.updPort p (fun q => { q with state := .presented, seatTimer := none, occupied := true }) with
          presentation := s.floor.presentation ++ [p] } }
    p

/-- Mode Control is told and routing is tested (R107, R114). -/
def State.afterVacate (s : State) : State := s.completionTest.route

/-- The port-clear event of a RELEASING port that holds `t` (R114). -/
def State.clearPort (s : State) (p : Nat) (t : Tote) : State :=
  State.afterVacate
    (State.write
      { s with
        floor :=
          { s.floor.updPort p (fun q => { q.vacate with occupied := false }) with
            releaseLane := s.floor.releaseLane ++ [some t] } }
      t.releasedEntry)

/-- The recorded occupancy of a seat (R103). -/
def State.recordSeat (s : State) (p : Nat) (occ : Bool) : State := s.updPort p fun q => { q with occupied := occ }

/-- A seat sensor report at port `p` (R104, R105, R114); a report of the occupancy already recorded is discarded. -/
def State.seatReport (p : Nat) (occ : Bool) (s : State) : State :=
  match s.floor.port p with
  | none => s
  | some q =>
      if q.occupied == occ then s
      else if q.state == .inbound && occ then s.seatTote p
      else if q.state == .releasing && !occ then
        match q.tote with
        | some t => s.clearPort p t
        | none => s.recordSeat p occ
      else if q.state == .vacant && !occ then (s.recordSeat p occ).route
      else s.recordSeat p occ

/-- SEAT: the report of occupied (R104). -/
def execSeat (p : Nat) (s : State) : Host.Outcome State Fault Refusal := taken (State.seatReport p true) s

/-- SEAT_SENSOR_REPORT (R105). -/
def execSeatSensorReport (p : Nat) (occ : Bool) (s : State) : Host.Outcome State Fault Refusal :=
  taken (State.seatReport p occ) s

/-- PORT_CLEAR: the report of empty (R114). -/
def execPortClear (p : Nat) (s : State) : Host.Outcome State Fault Refusal := taken (State.seatReport p false) s

/-! ### Seat timeout and clear key -/

/-- The tote held at a port. -/
def State.toteAt (s : State) (p : Nat) : Option Tote := (s.floor.port p).bind (·.tote)

/-- The RESERVED lines of a list (R106 step 3). -/
def State.reservedOf (s : State) (bs : List BoundLine) : List BoundLine := bs.filter (s.boundIn .reserved)

/-- Lines of a list returned to WAITING and taken off the list of the tote at port `p` (R106 step 3). -/
def State.returnFromPort (s : State) (p : Nat) (back : List BoundLine) : State :=
  { s.updPort p (fun q => { q with tote := q.tote.map fun x => { x with bound := x.bound.filter fun b => !back.contains b } }) with
    lines := returnLines back s.lines }

/-- The seat timeout of INBOUND port `p` (R106). -/
def State.seatTimeout (p : Nat) (s : State) : State :=
  match s.floor.port p with
  | none => s
  | some q =>
      if q.state == .inbound then
        let s1 := s.updPort p fun x => { x with state := .faulted, seatTimer := none }
        let s2 := s1.recordFault .seatTimeout p ((q.tote.bind (·.id)).getD 0) []
        let back := s2.reservedOf ((q.tote.map (·.bound)).getD [])
        (s2.returnFromPort p back).passesIf (!back.isEmpty)
      else s

/-- SEAT_TIMEOUT. -/
def execSeatTimeout (p : Nat) (s : State) : Host.Outcome State Fault Refusal := taken (State.seatTimeout p) s

/-- The clear key of port `p` (R107). -/
def State.clearKey (p : Nat) (s : State) : State :=
  match s.floor.port p with
  | none => s
  | some q =>
      if q.state == .faulted then
        match q.tote with
        | some t =>
            ((s.write { t with cause := some .manual }.releasedEntry).updPort p Port.vacate).afterVacate
        | none => (s.updPort p Port.vacate).afterVacate
      else s

/-- CLEAR_KEY. -/
def execClearKey (p : Nat) (s : State) : Host.Outcome State Fault Refusal := taken (State.clearKey p) s

/-! ### Merge -/

/-- The compartment of a release OFFER: 0 where emptied (R98). -/
def ToteComp.offered (x : ToteComp) : Compartment := { sku := x.sku, qty := BitVec.ofNat 8 (if x.emptied then 0 else x.qty) }

/-- The release OFFER of a record (R98). -/
def State.queueRelease (s : State) (x : Tote) : State :=
  match x.id, x.cls with
  | some t, some cls =>
      s.queueToAll (.offer t s.mergeSlot .release cls (x.comps.map ToteComp.offered)
        (exposureField (some cls) (x.exposure.getD 0)))
  | _, _ => s

/-- PHASE_UNKNOWN_MERGE while UNHOMED, for a record whose offer is built (R116). -/
def State.phaseUnknown (s : State) (x : Tote) : State :=
  match x.id with
  | some t => if s.tracker.homed then s else s.recordFault .phaseUnknownMerge s.mergeSlot t []
  | none => s

/-- The room test, and the completion test when the release lane has become empty (R115). -/
def State.afterMerge (s : State) : State :=
  let s1 := s.grantRoom
  if s1.floor.releaseLane.isEmpty then s1.completionTest else s1

/-- The merge event (R115, R116); discarded while the release-lane order is empty. -/
def State.merge (s : State) : State :=
  match s.floor.releaseLane with
  | [] => s
  | head :: rest =>
      let s1 := match head with
        | some x => (s.phaseUnknown x).queueRelease x
        | none => s
      State.afterMerge { s1 with floor := { s1.floor with releaseLane := rest } }

/-- MERGE. -/
def execMerge (s : State) : Host.Outcome State Fault Refusal := taken State.merge s

end Sys2Proof.Machine
end

