-- ==== Sys2Proof/Machine/Panel.lean ====
section
/-! DEFINITION. The put wall and the picker panel: put sensor reports (02 R36 to R40, 07 R138), confirm keys, the short key, and the
wrong-put pattern (07). -/

namespace Sys2Proof.Machine

/-! ### Task withdrawal (R138) -/

/-- The line of a withdrawn task: RESERVED again, or CANCELLED when cancel-pending (R34, R138 step 2). -/
def Line.withdrawn (l : Line) : Line :=
  if l.cancelPending then { l with state := .cancelled, binding := none, cancelPending := false }
  else { l with state := .reserved }

/-- The record of a task's line. -/
def State.taskLine (s : State) (t : Task) : Option Line := s.lines.find? (fun l => l.hasKey t.order t.lineNo)

/-- The entry of a line leaves the list of a tote record (R26). -/
def State.unlist (s : State) (t : ToteId) (o : OrderId) (n : Byte) : State :=
  s.updTote t fun x => { x with bound := x.bound.filter fun b => !(b.order == o && b.lineNo == n) }

/-- Step 2 of a withdrawal (R138). -/
def State.withdrawLine (s : State) (t : Task) : State :=
  let s1 := s.updLine t.order t.lineNo Line.withdrawn
  if (s.taskLine t).any (·.cancelPending) then (s1.unlist t.tote t.order t.lineNo).orderCheck t.order else s1

/-- The task record is ended on the panel (R135 step 1, R138 step 1). -/
def State.endTask (s : State) (t : Task) : State := { s with panel := s.panel.endTask t }

/-- The withdrawal of the lit task (R138). -/
def State.withdrawTask (s : State) (t : Task) : State :=
  (((s.endTask t).withdrawLine t).releaseTest t.port).taskChoice

/-- Withdraw the task lit at put `p`, if one is (R38, R139). -/
def State.withdrawAt (s : State) (p : Nat) : State :=
  match s.panel.task with
  | some t => if t.put = p then s.withdrawTask t else s
  | none => s

/-! ### Put sensors -/

/-- A COMPLETE position filled again after it was emptied: FREE, and PUT_SWAPPED written (R40). -/
def State.swapPut (s : State) (p : Nat) (o : Option OrderId) : State :=
  (s.updPut p fun q => { q with state := .free, order := none }).write (.putSwapped p (o.getD 0))

/-- A put sensor report (R36, R38, R40); a report of the occupancy already recorded is discarded. -/
def State.putReport (p : Nat) (occ : Bool) (s : State) : State :=
  match s.put p with
  | none => s
  | some q =>
      if q.occupied == occ then s
      else
        let s1 := s.updPut p fun x => { x with occupied := occ }
        match q.state, occ with
        | .opened, false => (s1.updPut p fun x => { x with state := .suspended }).withdrawAt p
        | .suspended, true => (s1.updPut p fun x => { x with state := .opened }).taskChoice
        | .complete, false => s1.updPut p fun x => { x with emptied := true }
        | .complete, true => if q.emptied then s1.swapPut p q.order else s1
        | .opened, true => s1
        | .suspended, false => s1
        | .free, _ => s1

/-- PUT_SENSOR_REPORT. -/
def execPutSensorReport (p : Nat) (occ : Bool) (s : State) : Host.Outcome State Fault Refusal := taken (State.putReport p occ) s

/-! ### Confirm key -/

/-- The wrong-put pattern: an off or flashing put flashes with count 0 (R131). -/
def PutLight.flash : PutLight → PutLight
  | .lit => .lit
  | .off => .flashing 0
  | .flashing _ => .flashing 0

/-- Set the light of one put by its old value. -/
def Panel.updPutLight (x : Panel) (p : Nat) (f : PutLight → PutLight) : Panel :=
  { x with puts := x.puts.map fun q => if q.num == p then { q with light := f q.light } else q }

/-- Put `p` flashes the wrong-put pattern (R130, R131). -/
def State.flashPut (s : State) (p : Nat) : State := { s with panel := s.panel.updPutLight p PutLight.flash }

/-- The task's confirm is a short (R130). -/
def Task.isShort (t : Task) : Bool := decide (t.display < t.units)

/-- The compartment after a confirm: lowered by q, or emptied by a short (R94, R132, R133). -/
def ToteComp.confirmed (t : Task) (x : ToteComp) : ToteComp :=
  if t.isShort then { x with qty := 0, emptied := true } else { x with qty := x.qty - t.display }

/-- Step 2 of a confirm (R135). -/
def State.confirmComp (s : State) (t : Task) : State :=
  s.updTote t.tote fun x => { x with comps := x.comps.modify (t.comp - 1) (ToteComp.confirmed t) }

/-- The state of a confirmed line: CANCELLED when cancel-pending, DONE at its requested quantity, WAITING otherwise (R132, R133). -/
def Line.afterConfirm (l : Line) (q : Nat) : LineState :=
  if l.cancelPending then .cancelled else if l.picked + q = l.requested then .done else .waiting

/-- The confirmed line (R132, R133). -/
def Line.confirmed (t : Task) (l : Line) : Line :=
  { l with picked := l.picked + t.display, short := l.short || t.isShort, state := l.afterConfirm t.display, binding := none,
           cancelPending := false }

/-- Step 3 of a confirm (R135). -/
def State.confirmLine (s : State) (t : Task) : State :=
  (s.updLine t.order t.lineNo (Line.confirmed t)).unlist t.tote t.order t.lineNo

/-- The lines that a short returns beside its own: the RESERVED ones on the emptied compartment (R134). -/
def State.shortOthers (s : State) (t : Task) : List BoundLine :=
  if t.isShort then
    ((s.floor.allTotes.find? (·.isId t.tote)).map (·.bound)).getD [] |>.filter fun b =>
      b.comp == t.comp && s.boundIn .reserved b
  else []

/-- Step 4 of a confirm (R135). -/
def State.returnOthers (s : State) (t : Task) (back : List BoundLine) : State :=
  { s.updTote t.tote (fun x => { x with bound := x.bound.filter fun b => !back.contains b }) with
    lines := returnLines back s.lines }

/-- The recorded quantity of the task's compartment. -/
def State.compQty (s : State) (t : Task) : Nat :=
  ((s.floor.allTotes.find? (·.isId t.tote)).bind fun x => x.comps[t.comp - 1]?.map ToteComp.qty).getD 0

/-- The PICK or SHORT entry of a confirm, with the compartment's quantity before it (R136, R137). -/
def Task.entry (t : Task) (before : Nat) : EntryBody :=
  if t.isShort then
    .short t.order t.lineNo t.tote t.display (t.units - t.display) t.comp t.put (decide (t.units < before))
  else .pick t.order t.lineNo t.tote t.display t.comp t.put

/-- The confirmed line returns to WAITING (R135 step 7). -/
def State.confirmReturns (s : State) (t : Task) : Bool :=
  (s.taskLine t).any fun l => l.afterConfirm t.display == .waiting

/-- An applied confirm of the lit task (R135). -/
def State.applyConfirm (s : State) (t : Task) : State :=
  let s3 := ((s.endTask t).confirmComp t).confirmLine t
  let back := s3.shortOthers t
  let s6 := ((s3.returnOthers t back).write (t.entry (s.compQty t))).orderCheck t.order
  ((s6.passesIf (s.confirmReturns t || !back.isEmpty)).releaseTest t.port).taskChoice

/-- A confirm key press at put `p` (R130). -/
def State.confirmKey (p : Nat) (s : State) : State :=
  match s.panel.task with
  | some t => if t.put = p then s.applyConfirm t else s.flashPut p
  | none => s.flashPut p

/-- CONFIRM_KEY. -/
def execConfirmKey (p : Nat) (s : State) : Host.Outcome State Fault Refusal := taken (State.confirmKey p) s

/-! ### Short key -/

/-- A press of the short key (R129). -/
def State.shortKey (s : State) : State :=
  match s.panel.task with
  | none => s
  | some t =>
      { s with
        panel :=
          { s.panel.setPort t.port true (some (t.display - 1)) with task := some { t with display := t.display - 1 } } }

/-- SHORT_KEY. -/
def execShortKey (s : State) : Host.Outcome State Fault Refusal := taken State.shortKey s

/-! ### End of the wrong-put pattern -/

/-- A put whose flash count has reached 2 returns to off (R131). -/
def PutLight.settle : PutLight → PutLight
  | .flashing n => if 2 ≤ n then .off else .flashing n
  | .off => .off
  | .lit => .lit

/-- PUT_FLASH_END: taken where its trigger stands; the second tick that brings the count to 2 takes it itself (log 6). -/
def execPutFlashEnd (p : Nat) (s : State) : Host.Outcome State Fault Refusal :=
  taken (fun x => { x with panel := x.panel.updPutLight p PutLight.settle }) s

end Sys2Proof.Machine
end

