-- ==== Sys2Proof/Machine/Clock.lean ====
section
/-! DEFINITION. What the reference clock brings (00 section 7, 04 R71, 05 R95, 06 R106, 07 R131): second ticks, exposures spent,
round closes, and the millisecond of a step on an empty queue. -/

namespace Sys2Proof.Machine

/-! ### Second tick -/

/-- A CHILLED or FROZEN record counts down (R95). -/
def Tote.countDown (x : Tote) : Tote :=
  if x.cls.any TempClass.cold then { x with exposure := x.exposure.map (· - 1) } else x

/-- A flashing put counts and, at 2, returns to off (R131). -/
def PutLight.tick : PutLight → PutLight
  | .flashing n => PutLight.settle (.flashing (n + 1))
  | .off => .off
  | .lit => .lit

/-- Every flashing put counts (R131). -/
def Panel.tick (x : Panel) : Panel := { x with puts := x.puts.map fun q => { q with light := q.light.tick } }

/-- The held records whose exposure-spent events a tick takes, with their tote IDs, in the order lane, then ports (R95, log 16). -/
def State.dueSpent (s : State) : List (ToteId × Tote) :=
  s.floor.heldTotes.filterMap fun x => if x.spent && !x.spentTaken then x.id.map fun t => (t, x) else none

/-- The exposure-spent events of a tick (R96). Steps 1 and 2 are taken for every record that the tick spends, then step 3 for every one,
then step 4 for each that returned lines, so that no pass or release of one meets another before its own steps 1 and 2. DESIGN CHOICE,
log 16. -/
def State.spendAll (s : State) : State :=
  let s1 := s.dueSpent.foldl (fun x d => x.spendRecord d.1 d.2) s
  let s2 := s.dueSpent.foldl (fun x d => x.spendRelease d.1) s1
  (s.dueSpent.filter fun d => !(s.spentLines d.2).isEmpty).foldl (fun x _ => x.allPasses) s2

/-- What a second tick does once the clock has risen (R95, R96, R131); the bench minute is a view of the clock (R25). -/
def State.tickWork (s : State) : State :=
  State.spendAll { s with floor := s.floor.mapTotes Tote.countDown, panel := s.panel.tick }

/-- The clock at the next whole second. -/
def State.nextSecond (s : State) : State := { s with ms := (s.ms / 1000 + 1) * 1000 }

/-- SECOND_TICK: the clock passes to the next whole second (log 3); while a reset is held it stands, and while UNCONFIGURED
only the clock rises (R187). -/
def execSecondTick (s : State) : Host.Outcome State Fault Refusal :=
  .next (if s.resetHeld then s else whenLive State.tickWork s.nextSecond)

/-- EXPOSURE_SPENT: taken where a held record stands at 0 and has not taken it; the tick or landing that brings it to 0
takes it itself (R96, log 6). -/
def execExposureSpent (t : ToteId) (s : State) : Host.Outcome State Fault Refusal := taken (fun x => x.spendIfDue t) s

/-- ROUND_CLOSE: the expiry of the round timer of `t`'s record (R71, log 3). -/
def execRoundClose (t : ToteId) (s : State) : Host.Outcome State Fault Refusal := taken (fun x => x.expireRound t) s

/-! ### A millisecond of the clock (logs 2 and 4) -/

/-- The totes whose round timers have expired, in table order (R71). -/
def State.dueRounds (s : State) : List ToteId :=
  (s.contests.filter fun c => c.roundTimer.any (fun d => decide (d ≤ s.ms))).map (·.tote)

/-- The ports whose seat timers have expired, in port order (R106). -/
def State.dueSeats (s : State) : List Nat :=
  (s.floor.ports.filter fun q => q.seatTimer.any (fun d => decide (d ≤ s.ms))).map (·.num)

/-- The events that fall due at a millisecond: the second tick, then round closes, then seat timeouts (log 4). -/
def State.dueWork (s : State) : State :=
  let s1 := if s.ms % 1000 = 0 then s.tickWork else s
  let s2 := s1.dueRounds.foldl State.expireRound s1
  s2.dueSeats.foldl (fun x p => x.seatTimeout p) s2

/-- One millisecond passes on an empty queue (log 2); while a reset is held nothing happens, and while UNCONFIGURED only the clock
counts (R187). -/
def State.idle (s : State) : State :=
  if s.resetHeld then s else whenLive State.dueWork { s with ms := s.ms + 1 }

end Sys2Proof.Machine
end

