-- ==== Sys2Proof/Machine/LoopFrames.lean ====
section
/-! DEFINITION. The contest frames as commands (04): OFFER, BID, TAKE, LANDED and EXIT received, from other stations or the
bench's own received back (R84). -/

namespace Sys2Proof.Machine

/-- A frame reaches the block that takes it; the receive path holds no frame after it (R180, log 11). -/
def State.clearReceived (s : State) : State := { s with received := none }

/-- OFFER received (R63, R66). -/
def execOffer (o : OfferFrame) (s : State) : Host.Outcome State Fault Refusal :=
  taken (fun x => x.clearReceived.takeOffer o) s

/-- BID received (R69, R84). -/
def execBid (src score distance : Nat) (t : ToteId) (s : State) : Host.Outcome State Fault Refusal :=
  taken (fun x => x.clearReceived.takeBid { score := score, dist := distance, addr := src } t) s

/-- TAKE received (R65, R73, R84); a late mark changes nothing (R73). -/
def execTake (src score distance : Nat) (t : ToteId) (_late : Bool) (s : State) : Host.Outcome State Fault Refusal :=
  taken (fun x => x.clearReceived.takeTake { score := score, dist := distance, addr := src } t) s

/-- LANDED received (R65, R80, R84). -/
def execLanded (src : Nat) (t : ToteId) (s : State) : Host.Outcome State Fault Refusal :=
  taken (fun x => x.clearReceived.takeLanded src t) s

/-- EXIT received, from any station (R65, R80). -/
def execExit (_src : Nat) (t : ToteId) (s : State) : Host.Outcome State Fault Refusal :=
  taken (fun x => x.clearReceived.takeExit t) s

end Sys2Proof.Machine
end

