-- ==== Sys2Proof/Machine/Orders.lean ====
section
/-! DEFINITION. GRANT and CANCEL (02 sections 2.3 and 2.4). -/

namespace Sys2Proof.Machine

/-! ### GRANT -/

/-- Two lines carry one line number (R29 test 5). -/
def repeatedLine : List GrantLine → Bool
  | [] => false
  | x :: xs => xs.any (fun y => y.lineNo == x.lineNo) || repeatedLine xs

/-- R29 test 1. -/
def grantMalformed (g : GrantFrame) : Bool :=
  g.count != g.lines.length || g.dest.first != g.dest.last || g.order == 0
    || g.lines.any fun l => l.lineNo == 0 || l.sku == 0 || l.cls.isNone

/-- R29 test 3: the position is neither FREE nor OPEN for the order, or lines of the order stand at another position. -/
def State.putBusy (s : State) (g : GrantFrame) : Bool :=
  !((s.put g.put).any fun q => q.state == .free || (q.state == .opened && q.order == some g.order))
    || (s.orderLines g.order).any fun l => l.put != g.put

/-- R29 test 5. -/
def State.duplicateLine (s : State) (g : GrantFrame) : Bool :=
  repeatedLine g.lines || g.lines.any fun x => s.lines.any fun l => l.hasKey g.order x.lineNo

/-- The tests of R29 in their order: the refusal code, or none. -/
def State.grantRefusal (s : State) (g : GrantFrame) : Option ReplyOutcome :=
  if grantMalformed g then some .malformed
  else if g.put == 0 || decide (s.cfg.puts < g.put) then some .putRange
  else if s.putBusy g then some .putBusy
  else if g.lines.any fun x => !x.cls.any s.cfg.served.has then some .classNotServed
  else if s.duplicateLine g then some .duplicateLine
  else if Config.orderLineLimit < (s.orderLines g.order).length + g.lines.length then some .orderTooLong
  else if Config.lineCapacity < s.lines.length + g.lines.length then some .tableFull
  else if s.mode != Mode.opened then some .benchClosed
  else if s.journal.bound then some .journalBound
  else none

/-- The record of the `i`-th line of an accepted grant (R24, R30). R29 has tested that the class is present. -/
def State.grantedLine (s : State) (g : GrantFrame) (i : Nat) (x : GrantLine) : Line :=
  { order := g.order, lineNo := x.lineNo, sku := x.sku, put := g.put, requested := grantQuantity x.qtyField, picked := 0,
    short := false, cancelPending := false, due := grantDue s.minute x.slack, cls := x.cls.getD .ambient,
    arrival := s.arrival + i, state := .waiting, binding := none }

/-- A FREE position opened for an order (R37). -/
def Put.grantedTo (o : OrderId) (q : Put) : Put :=
  if q.state == .free then { q with state := if q.occupied then .opened else .suspended, order := some o } else q

/-- Records made and the position opened (R31 steps 1 and 2). -/
def State.enterGrant (s : State) (g : GrantFrame) : State :=
  { s with lines := s.lines ++ g.lines.mapIdx (s.grantedLine g), arrival := s.arrival + g.lines.length }.updPut g.put
    (Put.grantedTo g.order)

/-- A GRANT taken by the Line Table (R28 to R32). -/
def State.takeGrant (s : State) (g : GrantFrame) : State :=
  if s.addressed g.dest then
    match s.grantRefusal g with
    | some r => s.reply g.dest.src (.grant g.order r)
    | none => ((s.enterGrant g).reply g.dest.src (.grant g.order .accepted)).allPasses
  else s

/-- GRANT. -/
def execGrant (g : GrantFrame) (s : State) : Host.Outcome State Fault Refusal :=
  taken (fun x => x.clearReceived.takeGrant g) s

/-! ### CANCEL -/

/-- A line that a CANCEL ends: WAITING, PROVISIONAL or RESERVED (R33). -/
def LineState.cancellable : LineState → Bool
  | .waiting => true
  | .provisional => true
  | .reserved => true
  | .active => false
  | .done => false
  | .cancelled => false

/-- A line of the order becomes CANCELLED or cancel-pending (R33). -/
def Line.cancel (o : OrderId) (l : Line) : Line :=
  if l.order == o then
    if l.state.cancellable then { l with state := .cancelled, binding := none }
    else if l.state == .active then { l with cancelPending := true }
    else l
  else l

/-- A bound line that a CANCEL of `o` takes off its list: a line of the order that is not ACTIVE (R33). -/
def State.cancels (s : State) (o : OrderId) (b : BoundLine) : Bool := b.order == o && !s.boundIn .active b

/-- The lines changed and taken off the lists of the records that held them (R33). -/
def State.cancelLines (s : State) (o : OrderId) : State :=
  { s with
    lines := s.lines.map (Line.cancel o)
    contests := s.contests.map fun c => { c with bound := c.bound.filter fun b => !s.cancels o b }
    floor := s.floor.mapTotes fun x => { x with bound := x.bound.filter fun b => !s.cancels o b } }

/-- Contest records that lose lines, in table order (R33). -/
def State.losingContests (s : State) (o : OrderId) : List ToteId :=
  (s.contests.filter fun c => c.bound.any (s.cancels o)).map (·.tote)

/-- Ports of the PRESENTED totes that lose lines, in presentation order (R33, R109). -/
def State.losingPorts (s : State) (o : OrderId) : List Nat :=
  (s.presentedTotes.filter fun x => x.2.bound.any (s.cancels o)).map (·.1)

/-- A CLAIMED record left with no lines is relinquished (R82). -/
def State.giveBackEmpty (s : State) (t : ToteId) : State :=
  match s.contestOf t with
  | none => s
  | some c => if c.state.claimed && c.bound.isEmpty then s.endContest c .relinquished c.slot else s

/-- A CANCEL of an order with records (R33, R35). -/
def State.cancelOrder (s : State) (src : Nat) (o : OrderId) : State :=
  let s1 := s.cancelLines o
  let s2 := (s.losingContests o).foldl State.giveBackEmpty s1
  let s3 := (s.losingPorts o).foldl State.releaseTest s2
  let s4 := s3.orderCheck o
  s4.reply src
    (.cancel o .accepted ((s.orderLines o).countP fun l => l.state.cancellable)
      ((s1.orderLines o).any fun l => l.state == .active && l.cancelPending))

/-- A CANCEL taken by the Line Table (R33, R35). DESIGN CHOICE, log 31: order ID 0, which no record can have, is answered NOT_FOUND. -/
def State.takeCancel (s : State) (d : Dest) (o : OrderId) : State :=
  if s.addressed d then
    if d.first ≠ d.last then s.reply d.src (.cancel o .malformed 0 false)
    else if (s.orderLines o).isEmpty then s.reply d.src (.cancel o .notFound 0 false)
    else s.cancelOrder d.src o
  else s

/-- CANCEL. -/
def execCancel (d : Dest) (o : OrderId) (s : State) : Host.Outcome State Fault Refusal :=
  taken (fun x => x.clearReceived.takeCancel d o) s

end Sys2Proof.Machine
end

