-- ==== Sys2Proof/Machine/Reports.lean ====
section
/-! DEFINITION. What a dispatch station reads and writes at the Journal Unit (09), and STATUS (10 R184): FETCH, MARK, CLEAR_FAULTS,
STATUS. -/

namespace Sys2Proof.Machine

/-! ### FETCH -/

/-- The entries one JOURNAL frame carries (R171). -/
def Journal.frameEntries (j : Journal) : List Entry := fitting Config.journalFrameWords j.entries

/-- The JOURNAL frame that answers a FETCH (R171 step 3). -/
def Journal.answer (j : Journal) : Payload :=
  .journal j.oldest (j.entries.length - j.frameEntries.length) j.frameEntries.length j.bound
    (j.frameEntries.flatMap Entry.words)

/-- R171 steps 1 and 2: the oldest entries go, and a flag that clears makes a task choice. -/
def State.dropEntries (s : State) (k : Nat) : State :=
  let s1 := { s with journal := s.journal.drop k }
  if s.journal.bound && !s1.journal.bound then s1.taskChoice else s1

/-- A FETCH (R171). -/
def State.takeFetch (s : State) (d : Dest) (k : Byte) : State :=
  if s.addressed d then
    if d.first ≠ d.last then s.reply d.src (.fetch .malformed)
    else
      let s1 := s.dropEntries k.toNat
      s1.queueTo d.src s1.journal.answer
  else s

/-- FETCH. -/
def execFetch (d : Dest) (k : Byte) (s : State) : Host.Outcome State Fault Refusal :=
  taken (fun x => x.clearReceived.takeFetch d k) s

/-! ### MARK and CLEAR_FAULTS -/

/-- The action codes of CONTROL that no mode action has (R183). -/
def statusCode : Byte := 4
def clearFaultsCode : Byte := 5
def markCode : Byte := 6

/-- A MARK whose count agrees with its length (R170). -/
def State.markEntry (s : State) (src : Nat) (words : List Word) : State :=
  if s.journal.bound || !s.journal.roomFor (s.journal.entryAt s.now (.mark words)) then
    s.reply src (.control markCode .journalBound)
  else (s.write (.mark words)).reply src (.control markCode .accepted)

/-- A CONTROL MARK (R170, R183). -/
def State.takeMark (s : State) (d : Dest) (count : Nat) (words : List Word) : State :=
  if s.addressed d then
    if count ≠ words.length then s.reply d.src (.control markCode .malformed) else s.markEntry d.src words
  else s

/-- MARK. -/
def execMark (d : Dest) (count : Nat) (words : List Word) (s : State) : Host.Outcome State Fault Refusal :=
  taken (fun x => x.clearReceived.takeMark d count words) s

/-- A CONTROL CLEAR_FAULTS (R175). -/
def State.takeClearFaults (s : State) (d : Dest) (mask : BitVec 16) : State :=
  if s.addressed d then
    State.reply { s with faults := s.faults.clear mask } d.src (.control clearFaultsCode .accepted)
  else s

/-- CLEAR_FAULTS. -/
def execClearFaults (d : Dest) (mask : BitVec 16) (s : State) : Host.Outcome State Fault Refusal :=
  taken (fun x => x.clearReceived.takeClearFaults d mask) s

/-! ### STATUS -/

/-- The contents of STATUS (R184). -/
def State.statusData (s : State) : StatusData :=
  { homed := s.tracker.homed, mode := s.mode, phase := s.tracker.phase, pitch := s.pitch,
    ports := s.floor.ports.map (·.state), laneCount := s.floor.lane.length, releaseCount := s.floor.releaseLane.length,
    waiting := s.countLines .waiting, reserved := s.countLines .reserved, contests := s.contests.length,
    bound := s.journal.bound, wordsUsed := s.journal.used, first := s.faults.first, sticky := s.faults.sticky }

/-- A CONTROL STATUS (R184). -/
def State.takeStatus (s : State) (d : Dest) : State :=
  if s.addressed d then s.reply d.src (.status .accepted s.statusData) else s

/-- STATUS. -/
def execStatus (d : Dest) (s : State) : Host.Outcome State Fault Refusal :=
  taken (fun x => x.clearReceived.takeStatus d) s

/-- A CONTROL whose action names none or whose length disagrees with its action (R183). -/
def State.takeMalformedControl (s : State) (d : Dest) (action : Byte) : State :=
  if s.addressed d then s.reply d.src (.control action .malformed) else s

end Sys2Proof.Machine
end

