-- ==== Sys2Proof/Machine/Modes.lean ====
section
/-! DEFINITION. The mode actions of Mode Control (08): OPEN, CLOSE_SOFT, CLOSE_HARD. -/

namespace Sys2Proof.Machine

/-- The REPLY to a mode action, with the mode after the action and any completion it brings about (R151, log 15). -/
def State.modeReply (s : State) (src : Nat) (a : ModeAction) : State :=
  s.reply src (.modeAction a .accepted (if s.closeComplete then .closed else s.mode))

/-! ### OPEN (R148) -/

/-- The effect of an OPEN on the mode. -/
def State.openBench (s : State) : State :=
  if s.mode == .opened then s
  else (State.write { s with mode := .opened, requester := none } (.mode s.mode .opened)).taskChoice

/-- A CONTROL OPEN (R148, R151). -/
def State.takeOpen (s : State) (d : Dest) : State :=
  if s.addressed d then s.openBench.modeReply d.src .opened else s

/-- OPEN. -/
def execControlOpen (d : Dest) (s : State) : Host.Outcome State Fault Refusal :=
  taken (fun x => x.clearReceived.takeOpen d) s

/-! ### The steps both closes share -/

/-- Steps 1 and 2 of R152 and R153: mode, requester and MODE entry; completion waits for the end of the entry steps (log 15). -/
def State.beginClose (s : State) (m : Mode) (src : Nat) : State :=
  State.write { s with mode := m, requester := some src, closeEntry := true } (.mode s.mode m)

/-- A record in BID_QUEUED or WON ends WITHDRAWN unless its own frame is in carriage (R152 step 3, R155). DESIGN CHOICE, log 33: also one
whose frame was in carriage at an earlier CLOSE_SOFT and has lost arbitration since. -/
def State.withdrawQueued (s : State) (t : ToteId) : State :=
  match s.contestOf t with
  | none => s
  | some c =>
      if (c.state == .bidQueued || c.state == .won) && !s.frameInCarriage t then s.endContest c .withdrawn c.slot else s

/-- Step 3 of R152 and R153, in table order (log 17). -/
def State.withdrawAllQueued (s : State) : State := (s.contests.map (·.tote)).foldl State.withdrawQueued s

/-- The REPLY, then the completion test (R152 steps 5 and 6, R154 steps 4 and 5). -/
def State.endClose (s : State) (src : Nat) (a : ModeAction) : State :=
  State.completionTest { s.modeReply src a with closeEntry := false }

/-- A CLOSE taken in a closing mode that it does not change: only the requester (R149, R150). -/
def State.replaceRequester (s : State) (src : Nat) (a : ModeAction) : State :=
  State.reply { s with requester := some src } src (.modeAction a .accepted s.mode)

/-- A CLOSE taken while CLOSED: REPLY, then QUIET at once (R149, R150, R157). -/
def State.answerClosed (s : State) (src : Nat) (a : ModeAction) : State :=
  (s.reply src (.modeAction a .accepted .closed)).queueTo src (.quiet .closed)

/-! ### CLOSE_SOFT (R149, R152) -/

/-- The entry of a soft close (R152). -/
def State.enterSoft (s : State) (src : Nat) : State :=
  ((s.beginClose .closingSoft src).withdrawAllQueued).endClose src .closeSoft

/-- A CONTROL CLOSE_SOFT (R149). -/
def State.takeCloseSoft (s : State) (d : Dest) : State :=
  if s.addressed d then
    match s.mode with
    | .opened => s.enterSoft d.src
    | .closingSoft => s.replaceRequester d.src .closeSoft
    | .closingHard => s.replaceRequester d.src .closeSoft
    | .closed => s.answerClosed d.src .closeSoft
  else s

/-- CLOSE_SOFT. -/
def execCloseSoft (d : Dest) (s : State) : Host.Outcome State Fault Refusal :=
  taken (fun x => x.clearReceived.takeCloseSoft d) s

/-! ### CLOSE_HARD (R150, R153, R154) -/

/-- Insert a record by the distance of its slot, behind those of equal distance (R153 step 4). -/
def State.insertNear (s : State) (c : Contest) : List Contest → List Contest
  | [] => [c]
  | x :: xs => if s.distance c.slot ≤ s.distance x.slot then c :: x :: xs else x :: s.insertNear c xs

/-- Records in the order of their slots' distance to the divert point, nearest first (R153 step 4). -/
def State.sortNear (s : State) : List Contest → List Contest
  | [] => []
  | x :: xs => s.insertNear x (s.sortNear xs)

/-- A CLAIMED record ends RELINQUISHED (R153 step 4). -/
def State.relinquish (s : State) (t : ToteId) : State :=
  match s.contestOf t with
  | none => s
  | some c => if c.state.claimed then s.endContest c .relinquished c.slot else s

/-- Step 4 of R153. -/
def State.relinquishAll (s : State) : State :=
  ((s.sortNear (s.contests.filter fun c => c.state.claimed)).map (·.tote)).foldl State.relinquish s

/-- The CLOSING_HARD release sweep (R118, R154 step 1). -/
def State.releaseSweep (s : State) : State := s.floor.presentation.foldl State.releaseTest s

/-- The entry of a hard close (R153, R154). -/
def State.enterHard (s : State) (src : Nat) : State :=
  (((s.beginClose .closingHard src).withdrawAllQueued.relinquishAll).releaseSweep).endClose src .closeHard

/-- A CONTROL CLOSE_HARD (R150). -/
def State.takeCloseHard (s : State) (d : Dest) : State :=
  if s.addressed d then
    match s.mode with
    | .opened => s.enterHard d.src
    | .closingSoft => s.enterHard d.src
    | .closingHard => s.replaceRequester d.src .closeHard
    | .closed => s.answerClosed d.src .closeHard
  else s

/-- CLOSE_HARD. -/
def execCloseHard (d : Dest) (s : State) : Host.Outcome State Fault Refusal :=
  taken (fun x => x.clearReceived.takeCloseHard d) s

end Sys2Proof.Machine
end

