-- ==== Sys2Proof/Machine/Bus.lean ====
section
/-! DEFINITION. The Bus Interface's commands (10): bytes received, and the carriage of the bench's own frames. -/

namespace Sys2Proof.Machine

/-! ### Reception (R179, R180) -/

/-- What a received frame comes to is handed to the block that takes it (R180). -/
def State.deliver (s : State) (bs : List Byte) : Received → State
  | .badCheck => s.recordFrameFault .frameCheck bs
  | .badForm => s.recordFrameFault .frameForm bs
  | .nothing => s
  | .offer o => s.takeOffer o
  | .bid src score distance t => s.takeBid { score := score, dist := distance, addr := src } t
  | .take src score distance t _ => s.takeTake { score := score, dist := distance, addr := src } t
  | .landed src t => s.takeLanded src t
  | .exit _ t => s.takeExit t
  | .grant g => s.takeGrant g
  | .cancel d o => s.takeCancel d o
  | .fetch d k => s.takeFetch d k
  | .modeAction .opened d => s.takeOpen d
  | .modeAction .closeSoft d => s.takeCloseSoft d
  | .modeAction .closeHard d => s.takeCloseHard d
  | .status d => s.takeStatus d
  | .clearFaults d mask => s.takeClearFaults d mask
  | .mark d count words => s.takeMark d count words
  | .malformedControl d a => s.takeMalformedControl d a

/-- FRAME_RECEIVED: the bytes of a frame, checked and delivered (R179, R180, R183). -/
def execFrameReceived (bs : List Byte) (s : State) : Host.Outcome State Fault Refusal :=
  taken (fun x => x.clearReceived.deliver bs (receiveBytes x.cfg.loopLength bs)) s

/-! ### Carriage (R177) -/

/-- The head of the queue goes into carriage when no frame is (R177, R181). -/
def State.startHead (s : State) : State :=
  if s.carried.isSome then s
  else
    match s.queue with
    | [] => s
    | e :: rest => { s with queue := { e with inCarriage := true } :: rest }

/-- TRANSMIT_START: the line is idle (R177, log 26). -/
def execTransmitStart (s : State) : Host.Outcome State Fault Refusal := taken State.startHead s

/-- The frame in carriage returns to the place it holds (R177, R181). DESIGN CHOICE, log 18: so does the BID or TAKE of a record that
ended during the carriage. -/
def State.stopCarriage (s : State) : State := { s with queue := s.queue.map fun e => { e with inCarriage := false } }

/-- ARBITRATION_LOST (R177). -/
def execArbitrationLost (s : State) : Host.Outcome State Fault Refusal := taken State.stopCarriage s

/-- The frame in carriage leaves the queue; its owner's event is taken unless the owner has ended; then dropped TAKEs are tried again
(R70, R72, R177). -/
def State.carriedAs (s : State) (e : TxEntry) (own : State → State) : State :=
  let s1 := s.takeCarriage e
  (if e.ownerEnded then s1 else own s1).requeueTakes

/-- The carriage of a BID (R70). -/
def State.bidCarried (s : State) : State :=
  match s.carried with
  | none => s
  | some e =>
      match e.frame.payload with
      | .bid t => s.carriedAs e fun x => x.ownBidCarried t
      | _ => s

/-- BID_CARRIED; without a BID in carriage nothing happens (log 26). -/
def execBidCarried (s : State) : Host.Outcome State Fault Refusal := taken State.bidCarried s

/-- The carriage of a TAKE (R72). -/
def State.takeCarried (s : State) : State :=
  match s.carried with
  | none => s
  | some e =>
      match e.frame.payload with
      | .take t _ => s.carriedAs e fun x => x.ownTakeCarried t
      | _ => s

/-- TAKE_CARRIED; without a TAKE in carriage nothing happens (log 26). -/
def execTakeCarried (s : State) : Host.Outcome State Fault Refusal := taken State.takeCarried s

/-- The carriage of any other frame: its owner has no further action (R177). -/
def State.otherCarried (s : State) : State :=
  match s.carried with
  | none => s
  | some e =>
      match e.frame.payload with
      | .bid _ => s
      | .take .. => s
      | _ => s.carriedAs e id

/-- FRAME_CARRIED; without such a frame in carriage nothing happens (log 26). -/
def execFrameCarried (s : State) : Host.Outcome State Fault Refusal := taken State.otherCarried s

end Sys2Proof.Machine
end

