-- ==== Sys2Proof/Machine/Reset.lean ====
section
/-! DEFINITION. Start-up (11): the configuration image, cold and warm reset with the sensor levels read at it, and the falls and
assertions that hold a reset. -/

namespace Sys2Proof.Machine

/-! ### The image (R186) -/

/-- Clock divisor codes 0..7. -/
def clockDivisorOf (c : BitVec 3) : Nat := [1, 2, 3, 4, 5, 6, 10, 12].getD c.toNat 12

/-- Encoder prescale codes 0..7. -/
def prescaleOf (c : BitVec 3) : Nat := [1, 2, 3, 4, 5, 6, 8, 12].getD c.toNat 12

/-- Bit-rate codes in kbit/s; codes 3..7 name 1000. -/
def bitRateOf (c : BitVec 3) : Nat := [250, 500, 1000].getD c.toNat 1000

/-- Step 1: the clamped fields. -/
def ConfigMemory.clamped (m : ConfigMemory) : ConfigMemory :=
  { m with
    depth := clampNat m.depth 1 8, mergeOffset := clampNat m.mergeOffset 1 16, settle := clampNat m.settle 2 64,
    tLine := clampNat m.tLine 1 60, tUnit := clampNat m.tUnit 0 15, eWarn := clampNat m.eWarn 0 600,
    roundMs := clampNat m.roundMs 4 64, pitch := clampNat m.pitch 20 5000, seatTimeout := clampNat m.seatTimeout 2 30 }

/-- A value lies in a..b. -/
def inRange (v a b : Nat) : Bool := a ≤ v && v ≤ b

/-- Step 2: the image is usable, tested on the clamped fields. -/
def ConfigMemory.usable (m : ConfigMemory) : Bool :=
  m.marker == Config.validMarker && inRange m.address 1 62 && inRange m.loopLength 16 1023 && decide (m.reader < m.loopLength)
    && inRange m.ports 2 4 && inRange m.lanePlaces 1 3 && inRange m.puts 4 12
    && (m.served.ambient || m.served.chilled || m.served.frozen) && decide (m.depth + m.mergeOffset < m.loopLength)

/-- Step 3: places, divert point and merge position (R1). -/
def ConfigMemory.derive (m : ConfigMemory) (st : Straps) : Image :=
  { clockDivisor := clockDivisorOf st.clockDivisor, prescale := prescaleOf st.prescale, bitRate := bitRateOf st.bitRate,
    address := m.address, loopLength := m.loopLength, reader := m.reader, ports := m.ports, lanePlaces := m.lanePlaces,
    puts := m.puts, served := m.served, depth := m.depth, mergeOffset := m.mergeOffset, settle := m.settle, tLine := m.tLine,
    tUnit := m.tUnit, eWarn := m.eWarn, roundMs := m.roundMs, pitch := m.pitch, seatTimeout := m.seatTimeout,
    places := m.ports + m.lanePlaces, divertPoint := (m.reader + m.depth) % m.loopLength,
    mergePoint := (m.reader + m.depth + m.mergeOffset) % m.loopLength }

/-- The image that straps and memory give, or none (R186). -/
def buildImage (st : Straps) (m : ConfigMemory) : Option Image :=
  if m.clamped.usable then some (m.clamped.derive st) else none

/-! ### The floor as the sensors read it (R91, R122) -/

/-- Occupied places among the first `n` sensors. -/
def occupiedCount (n : Nat) (xs : List Bool) : Nat := (xs.take n).countP id

/-- An orphan released from its seat (R91, R122). -/
def Tote.seatedOrphan : Tote := { Tote.newOrphan with cause := some .orphan }

/-- The port of a seat at reset: RELEASE_WAIT with a seated orphan, or VACANT (R122). -/
def Port.atReset (num : Nat) (occ : Bool) : Port :=
  { num := num, state := if occ then .releaseWait else .vacant, tote := if occ then some Tote.seatedOrphan else none,
    seatTimer := none, occupied := occ, routerStrokes := 0, releaseStrokes := 0 }

/-- The ports at reset. -/
def resetPorts (n : Nat) (seats : List Bool) : List Port :=
  (List.range n).map fun i => Port.atReset (i + 1) (seats.getD i false)

/-- The floor before routing and grants: lane orphans, seated orphans, markers (R91, R122). -/
def Floor.atReset (img : Image) (x : Sensors) : Floor :=
  let ports := resetPorts img.ports x.seats
  { lane := List.replicate (occupiedCount img.lanePlaces x.lane) Tote.newOrphan, ports := ports, presentation := [],
    releaseWait := (ports.filter (·.occupied)).map (·.num),
    releaseLane := List.replicate (occupiedCount Config.releaseLanePlaces x.releaseLane) none }

/-- The orphans made (R169). -/
def orphansAtReset (img : Image) (x : Sensors) : Nat :=
  occupiedCount img.lanePlaces x.lane + occupiedCount img.ports x.seats

/-- The put positions at reset (R41). -/
def resetPuts (n : Nat) (xs : List Bool) : List Put :=
  (List.range n).map fun i => { num := i + 1, state := .free, order := none, occupied := xs.getD i false, emptied := false }

/-! ### Taking a reset (R188) -/

/-- The kinds of reset (R188). -/
inductive ResetKind where
  | cold | warm
  deriving DecidableEq, Repr

/-- The journal after a reset that made `orphans` orphans (R169, R176). -/
def Journal.afterReset (k : ResetKind) (orphans : Nat) (j : Journal) : Journal :=
  match k with
  | .cold => .empty
  | .warm => j.afterWarm orphans

/-- The fault record after a reset (R176). -/
def FaultRecord.afterReset (k : ResetKind) (f : FaultRecord) : FaultRecord :=
  match k with
  | .cold => .empty
  | .warm => f

/-- What both resets and both outcomes of the image share: every block at its reset values on the given floor, the commands waiting, the
straps and the memory kept (R22, R41, R59, R86, R146, R162, R176, R185). -/
def State.blocksReset (s : State) (k : ResetKind) (img : Option Image) (puts : List Put) (fl : Floor) (panel : Panel)
    (orphans : Nat) : State :=
  { pending := s.pending, power := .running, straps := s.straps, memory := s.memory, image := img, ms := 0, tracker := .reset,
    lines := [], arrival := 0, puts := puts, lanes := { weight := 0, time := 0 }, contests := [], roster := [], floor := fl,
    panel := panel, mode := .closed, requester := none, closeEntry := false, journal := s.journal.afterReset k orphans,
    faults := s.faults.afterReset k, queue := [], received := none }

/-- A reset taken (R188): on an unusable image the bench is UNCONFIGURED (R187, log 23); else the floor is read, lane orphans are routed
and seated orphans are granted room (R122). -/
def State.takeReset (k : ResetKind) (x : Sensors) (s : State) : State :=
  match buildImage s.straps s.memory with
  | none => s.blocksReset k none [] (.vacant 0) (.reset 0 0) 0
  | some img =>
      (s.blocksReset k (some img) (resetPuts img.puts x.puts) (.atReset img x) (.reset img.ports img.puts)
        (orphansAtReset img x)).route.grantRoom

/-- COLD_RESET: the supply rises; the reset is taken unless the RESET line still holds it (R188, log 10). -/
def execColdReset (x : Sensors) (s : State) : Host.Outcome State Fault Refusal :=
  .next
    (if s.power.resetAsserted then { s with power := { s.power with supplyOk := true, coldPending := true } }
     else s.takeReset .cold x)

/-- WARM_RESET: the RESET line is released; the reset is taken unless the supply still holds it, and it is a cold one when the supply has
fallen meanwhile (R188, log 10). -/
def execWarmReset (x : Sensors) (s : State) : Host.Outcome State Fault Refusal :=
  .next
    (if s.power.supplyOk then s.takeReset (if s.power.coldPending then .cold else .warm) x
     else { s with power := { s.power with resetAsserted := false } })

/-- SUPPLY_FALL: the reset is held and will be a cold one; a frame in carriage is cut short (R188, R185). -/
def execSupplyFall (s : State) : Host.Outcome State Fault Refusal :=
  .next { s.stopCarriage with power := { s.power with supplyOk := false, coldPending := true } }

/-- RESET_ASSERTION: the reset is held (R188). -/
def execResetAssertion (s : State) : Host.Outcome State Fault Refusal :=
  .next { s with power := { s.power with resetAsserted := true } }

end Sys2Proof.Machine
end

