-- ==== Sys2Proof/Machine/Dispatch.lean ====
section
/-! DEFINITION. What each command does to everything but the queue of waiting commands: one arm per constructor of `Instr`. -/

namespace Sys2Proof.Machine

def exec (i : Instr) (s : State) : Host.Outcome State Fault Refusal :=
  match i with
  | .coldReset x => Sys2Proof.Machine.execColdReset x s
  | .warmReset x => Sys2Proof.Machine.execWarmReset x s
  | .encoderPulse => Sys2Proof.Machine.execEncoderPulse s
  | .advance => Sys2Proof.Machine.execAdvance s
  | .homeMark => Sys2Proof.Machine.execHomeMark s
  | .readerReport r => Sys2Proof.Machine.execReaderReport r s
  | .divert => Sys2Proof.Machine.execDivert s
  | .divertMiss => Sys2Proof.Machine.execDivertMiss s
  | .lapseWindowClose t => Sys2Proof.Machine.execLapseWindowClose t s
  | .laneEntry => Sys2Proof.Machine.execLaneEntry s
  | .seat p => Sys2Proof.Machine.execSeat p s
  | .seatSensorReport p occ => Sys2Proof.Machine.execSeatSensorReport p occ s
  | .seatTimeout p => Sys2Proof.Machine.execSeatTimeout p s
  | .clearKey p => Sys2Proof.Machine.execClearKey p s
  | .portClear p => Sys2Proof.Machine.execPortClear p s
  | .merge => Sys2Proof.Machine.execMerge s
  | .putSensorReport p occ => Sys2Proof.Machine.execPutSensorReport p occ s
  | .confirmKey p => Sys2Proof.Machine.execConfirmKey p s
  | .shortKey => Sys2Proof.Machine.execShortKey s
  | .secondTick => Sys2Proof.Machine.execSecondTick s
  | .exposureSpent t => Sys2Proof.Machine.execExposureSpent t s
  | .putFlashEnd p => Sys2Proof.Machine.execPutFlashEnd p s
  | .roundClose t => Sys2Proof.Machine.execRoundClose t s
  | .offer o => Sys2Proof.Machine.execOffer o s
  | .bid src score distance t => Sys2Proof.Machine.execBid src score distance t s
  | .take src score distance t late => Sys2Proof.Machine.execTake src score distance t late s
  | .landed src t => Sys2Proof.Machine.execLanded src t s
  | .exit src t => Sys2Proof.Machine.execExit src t s
  | .grant g => Sys2Proof.Machine.execGrant g s
  | .cancel d o => Sys2Proof.Machine.execCancel d o s
  | .fetch d k => Sys2Proof.Machine.execFetch d k s
  | .controlOpen d => Sys2Proof.Machine.execControlOpen d s
  | .closeSoft d => Sys2Proof.Machine.execCloseSoft d s
  | .closeHard d => Sys2Proof.Machine.execCloseHard d s
  | .status d => Sys2Proof.Machine.execStatus d s
  | .clearFaults d mask => Sys2Proof.Machine.execClearFaults d mask s
  | .mark d count words => Sys2Proof.Machine.execMark d count words s
  | .frameReceived bytes => Sys2Proof.Machine.execFrameReceived bytes s
  | .transmitStart => Sys2Proof.Machine.execTransmitStart s
  | .arbitrationLost => Sys2Proof.Machine.execArbitrationLost s
  | .bidCarried => Sys2Proof.Machine.execBidCarried s
  | .takeCarried => Sys2Proof.Machine.execTakeCarried s
  | .frameCarried => Sys2Proof.Machine.execFrameCarried s
  | .supplyFall => Sys2Proof.Machine.execSupplyFall s
  | .resetAssertion => Sys2Proof.Machine.execResetAssertion s

end Sys2Proof.Machine
end

