-- ==== Sys2Proof/Safety.lean ====
section
/-! DEFINITION. What must stand in every state of the bench, each rule of the manual as a property of one state; and which commands may
change which state. -/

namespace Sys2Proof.Machine

/-- R167: the bound flag is set while the free space is below 192 words and clear while it is 192 or more. -/
def JournalOk (s : State) : Prop := s.journal.bound = decide (s.journal.free < Config.journalReserve)

/-- R177, R181: at most 12 frames, in order of rank, the highest first, and at most one of them in carriage. -/
structure QueueOk (q : List TxEntry) : Prop where
  size : q.length ≤ Config.queueCapacity
  sorted : q.Pairwise fun a b => b.frame.rank ≤ a.frame.rank
  carriage : (q.filter (·.inCarriage)).length ≤ 1

/-- R147: a requester is held exactly while the mode is CLOSING_SOFT or CLOSING_HARD; and no close is inside its entry steps. -/
structure ModeOk (s : State) : Prop where
  requester : s.requester.isSome = s.mode.closing
  settled : s.closeEntry = false

/-- R63: at most 48 entries, at most one for any tote ID. -/
structure RosterOk (r : List RosterEntry) : Prop where
  size : r.length ≤ Config.rosterCapacity
  once : (r.map (·.tote)).Nodup

/-- The tote IDs of the Tote Store (R87). -/
def Floor.ids (fl : Floor) : List ToteId := fl.allTotes.filterMap (·.id)

/-- The port numbers, one record for each port (R103). -/
def Floor.portNums (fl : Floor) : List Nat := fl.ports.map (·.num)

/-- R60, R61, R87: a tote ID stands once, in the contest table or in the Tote Store; held and contest records together are at most
places. -/
structure ClaimsOk (s : State) : Prop where
  ports : s.floor.portNums.Nodup
  once : (s.contests.map (·.tote) ++ s.floor.ids).Nodup
  places : s.committed ≤ s.cfg.places

/-- R103, R106, R108, R112, R113: a port holds a record exactly while it is not VACANT, and its seat timer runs exactly while it is
INBOUND; release-lane entries and RELEASING ports together are at most 2; the presentation order lists the PRESENTED ports and the
release-wait order the RELEASE_WAIT ports, each once. -/
structure FloorOk (fl : Floor) : Prop where
  held : ∀ q ∈ fl.ports, q.tote = none ↔ q.state = .vacant
  timer : ∀ q ∈ fl.ports, q.seatTimer = none ↔ q.state ≠ .inbound
  room : fl.releaseLane.length + (fl.ports.filter fun q => q.state == .releasing).length ≤ Config.releaseLanePlaces
  presentation : fl.presentation.Nodup ∧ (∀ p ∈ fl.presentation, ∃ q ∈ fl.ports, q.num = p ∧ q.state = .presented) ∧
    ∀ q ∈ fl.ports, q.state = .presented → q.num ∈ fl.presentation
  releaseWait : fl.releaseWait.Nodup ∧ (∀ p ∈ fl.releaseWait, ∃ q ∈ fl.ports, q.num = p ∧ q.state = .releaseWait) ∧
    ∀ q ∈ fl.ports, q.state = .releaseWait → q.num ∈ fl.releaseWait

/-- R186: the image in force is the one that straps and memory give, or none. -/
def ImageOk (s : State) : Prop := s.image = buildImage s.straps s.memory

/-- R14: the approach queue's counts lie in 1..D and rise from head to tail, an entry at D has been made in the open window, and no
tote ID appears twice. -/
structure ApproachOk (d : Nat) (readFlag : Bool) (q : List ApproachEntry) : Prop where
  low : ∀ e ∈ q, 1 ≤ e.remaining
  high : ∀ e ∈ q, e.remaining ≤ d
  rising : q.Pairwise fun a b => a.remaining < b.remaining
  window : (∃ e ∈ q, e.remaining = d) → readFlag = true
  once : (q.filterMap (·.id)).Nodup

/-- R18, R20: at most 2 diverts await, the oldest at the head; each has seen fewer than two advances, and no two as many. -/
structure WatchOk (w : List WatchEntry) : Prop where
  size : w.length ≤ 2
  young : ∀ e ∈ w, e.aged < 2
  falling : w.Pairwise fun a b => b.aged < a.aged

/-- R3, R4, R5, R14, R18: the Slot Tracker's ranges on a configured bench. -/
structure TrackerOk (s : State) : Prop where
  prescale : s.tracker.prescale < s.cfg.prescale
  phase : s.tracker.phase < s.cfg.loopLength
  history : s.tracker.history.length ≤ Config.historyLength
  intervals : ∀ v ∈ s.tracker.history, v ≤ Config.intervalCap
  approach : ApproachOk s.cfg.depth s.tracker.readFlag s.tracker.approach
  watch : WatchOk s.tracker.watch

/-- The panel of one port while `t` is the task, if any: lit and showing the display value at the task's port, off and blank at
every other (R123). -/
def PortPanel.shows (t : Option Task) (q : PortPanel) : Prop :=
  match t with
  | none => q.lit = false ∧ q.display = none
  | some k => if q.num = k.port then q.lit = true ∧ q.display = some k.display else q.lit = false ∧ q.display = none

/-- A put is lit only at the task's put (R123, R131). -/
def PutPanel.shows (t : Option Task) (q : PutPanel) : Prop := q.light = .lit ↔ t.any (fun k => k.put == q.num)

/-- R131: a flash count between events is 0 or 1. -/
def PutLight.young : PutLight → Bool
  | .flashing n => decide (n < 2)
  | .off => true
  | .lit => true

/-- R123, R131: lights and displays follow the task record; flash counts stay below 2 between events. -/
structure PanelOk (x : Panel) : Prop where
  ports : ∀ q ∈ x.ports, q.shows x.task
  puts : ∀ q ∈ x.puts, q.shows x.task
  flash : ∀ q ∈ x.puts, q.light.young = true

/-- R26, R34: a line is bound in PROVISIONAL (to a contest record), RESERVED and ACTIVE (to a tote record), and in no other state; only an
ACTIVE line is cancel-pending. -/
def Line.bindingOk (l : Line) : Bool :=
  match l.state, l.binding with
  | .provisional, some (.contest _) => !l.cancelPending
  | .reserved, some _ => !l.cancelPending
  | .active, some (.tote _) => true
  | .waiting, none => !l.cancelPending
  | .done, none => !l.cancelPending
  | .cancelled, none => !l.cancelPending
  | _, _ => false

/-- The keys of a list of bound lines. -/
def boundKeys (bs : List BoundLine) : List (OrderId × Byte) := bs.map fun b => (b.order, b.lineNo)

/-- Line `l` is the line of a listed entry `b`: bound to that record, in one of the states, with at least the units outstanding (R27). -/
structure Line.Holds (l : Line) (b : BoundLine) (r : Binding) (states : List LineState) : Prop where
  key : l.isBound b = true
  state : l.state ∈ states
  binding : l.binding = some r
  units : b.units ≤ l.requested - l.picked

/-- R23, R26, R27, R34, R56, R111, R123: the Line Table, the lists of bound lines that name its records, and the task on one of them, lit
for a tote at a PRESENTED port. `listed` is the converse of `claims` and `totes`; a tote on its way out has an empty list
(`released`). -/
structure LinesOk (s : State) : Prop where
  size : s.lines.length ≤ Config.lineCapacity
  keys : (s.lines.map fun l => (l.order, l.lineNo)).Nodup
  order : ∀ l ∈ s.lines, (s.orderLines l.order).length ≤ Config.orderLineLimit
  put : ∀ l ∈ s.lines, ∀ m ∈ s.lines, l.order = m.order → l.put = m.put
  bindings : ∀ l ∈ s.lines, l.bindingOk = true
  picked : ∀ l ∈ s.lines, l.picked ≤ l.requested
  claims : ∀ c ∈ s.contests, (boundKeys c.bound).Nodup ∧
    ∀ b ∈ c.bound, ∃ l ∈ s.lines, l.Holds b (.contest c.tote) [.provisional, .reserved]
  totes : ∀ x ∈ s.floor.allTotes, (boundKeys x.bound).Nodup ∧
    ∀ b ∈ x.bound, ∃ t, x.id = some t ∧ ∃ l ∈ s.lines, l.Holds b (.tote t) [.reserved, .active]
  listed : ∀ l ∈ s.lines, ∀ t,
    (l.binding = some (.contest t) → ∃ c ∈ s.contests, c.tote = t ∧ ∃ b ∈ c.bound, l.isBound b = true) ∧
    (l.binding = some (.tote t) → ∃ x ∈ s.floor.allTotes, x.id = some t ∧ ∃ b ∈ x.bound, l.isBound b = true)
  released : (∀ q ∈ s.floor.ports, q.state = .releaseWait ∨ q.state = .releasing ∨ q.state = .faulted →
      ∀ x ∈ q.tote, x.bound = []) ∧
    ∀ y ∈ s.floor.releaseLane, ∀ x ∈ y, x.bound = []
  task : ∀ k, s.panel.task = some k → k.display ≤ k.units ∧
    (∃ x, s.floor.presentedTote k.port = some x ∧ x.id = some k.tote) ∧
    ∃ l ∈ s.lines, l.hasKey k.order k.lineNo = true ∧ l.state = .active ∧ l.binding = some (.tote k.tote) ∧
      k.units ≤ l.requested - l.picked
  active : ∀ l ∈ s.lines, l.state = .active → ∃ k, s.panel.task = some k ∧ l.hasKey k.order k.lineNo = true

/-- The invariant of the bench: every property above but that of the Line Table, which stands on its own. -/
structure Inv (s : State) : Prop where
  journal : JournalOk s
  queue : QueueOk s.queue
  mode : ModeOk s
  roster : RosterOk s.roster
  claims : ClaimsOk s
  floor : FloorOk s.floor
  image : ImageOk s
  tracker : TrackerOk s
  panel : PanelOk s.panel

/-! ### Commands one after another -/

/-- The state after commands taken one after another; a command that stops ends the sequence where it stands. -/
def takeAll : List Instr → State → State
  | [], s => s
  | c :: cs, s =>
      match exec c s with
      | .next t => takeAll cs t
      | .fault _ => s
      | .refused _ => s

/-! ### Which commands may change what -/

/-- The commands that take a reset or hold one (R188). -/
def resets : Instr → Bool
  | .coldReset _ => true
  | .warmReset _ => true
  | .supplyFall => true
  | .resetAssertion => true
  | _ => false

/-- The commands that change Slot Tracker state (R3, R4, R7, R10, R15, R18 to R20). -/
def tracks : Instr → Bool
  | .encoderPulse => true
  | .advance => true
  | .homeMark => true
  | .readerReport _ => true
  | .divert => true
  | .divertMiss => true
  | .laneEntry => true
  | _ => false

/-- The commands that can make a contest record (R66, R75). -/
def makesRecords : Instr → Bool
  | .readerReport _ => true
  | .offer _ => true
  | .frameReceived _ => true
  | _ => false

/-- The commands by which the intake mode is set (R147); a frame as bytes can be one of them. -/
def setsMode : Instr → Bool
  | .controlOpen _ => true
  | .closeSoft _ => true
  | .closeHard _ => true
  | .frameReceived _ => true
  | _ => false

/-- The commands that take entries out of the journal (R171); a frame as bytes can be one of them. -/
def fetches : Instr → Bool
  | .fetch .. => true
  | .frameReceived _ => true
  | _ => false

/-- The commands that take faults out of the record (R175); a frame as bytes can be one of them. -/
def clears : Instr → Bool
  | .clearFaults .. => true
  | .frameReceived _ => true
  | _ => false

/-- The commands that accept order lines (R24); a frame as bytes can be one of them. -/
def grants : Instr → Bool
  | .grant _ => true
  | .frameReceived _ => true
  | _ => false

end Sys2Proof.Machine
end

