-- ==== Sys2Proof/Certificates/Slice0/Obligations.lean ====
section
/-! DEFINITION. The statements about the bench, one Prop each, in the order of OBLIGATIONS.json. -/

open Sys2Proof Sys2Proof.Machine

/-! ### The machine -/

/-- Log 1: a step takes the command at the front of the queue and leaves the rest of the queue. -/
def Obligations.StepTakesFrontCommand : Prop :=
  ∀ (c : Instr) (rest : List Instr) (s : State), s.pending = c :: rest → step s = exec c { s with pending := rest }

/-- Logs 2 to 4: with no command waiting a step is one millisecond of the reference clock; a millisecond at which nothing falls due
changes the clock alone, and one that ends a second on an idle bench is a second tick. What falls due in a millisecond is taken as the
commands that name it: the second tick, then every round timer's close (R71), then every seat timer's timeout (R106), in the order of
log 4. -/
def Obligations.EmptyQueueStepIsOneMillisecond : Prop :=
  ∀ s : State, s.pending = [] →
    step s = .next s.idle ∧
    (s.resetHeld = true → s.idle = s) ∧
    (s.resetHeld = false → s.image = none → s.idle = { s with ms := s.ms + 1 }) ∧
    (s.live = true → (s.ms + 1) % 1000 ≠ 0 →
      (∀ c ∈ s.contests, ∀ d, c.roundTimer = some d → s.ms + 1 < d) →
      (∀ q ∈ s.floor.ports, ∀ d, q.seatTimer = some d → s.ms + 1 < d) → s.idle = { s with ms := s.ms + 1 }) ∧
    (s.live = true → (s.ms + 1) % 1000 = 0 → s.contests = [] → s.floor.heldTotes = [] →
      (∀ q ∈ s.floor.ports, q.seatTimer = none) → exec .secondTick s = .next s.idle) ∧
    (s.live = true →
      let ticked := if (s.ms + 1) % 1000 = 0 then takeAll [.secondTick] s else { s with ms := s.ms + 1 }
      let closed := takeAll (ticked.dueRounds.map .roundClose) ticked
      s.idle = takeAll (closed.dueSeats.map .seatTimeout) closed) ∧
    s.dueRounds = (s.contests.filter fun c =>
      match c.roundTimer with
      | none => false
      | some d => d ≤ s.ms).map (·.tote) ∧
    s.dueSeats = (s.floor.ports.filter fun q =>
      match q.seatTimer with
      | none => false
      | some d => d ≤ s.ms).map (·.num)

/-- R187, R188 and log 10: while the bench is UNCONFIGURED, or a reset is held, no command but a reset has an effect; of a second tick an
UNCONFIGURED bench takes the clock alone. And what holds a reset, and the resets that are not taken because the other line still holds
them; after a fall of the supply the release of the RESET line takes a cold reset. -/
def Obligations.CommandsWaitAndResetsAreHeld : Prop :=
  (∀ (c : Instr) (s : State), resets c = false → s.live = false →
      (c ≠ .secondTick → exec c s = .next s) ∧
      (c = .secondTick → s.resetHeld = true → exec c s = .next s) ∧
      (c = .secondTick → s.resetHeld = false → exec c s = .next { s with ms := (s.ms / 1000 + 1) * 1000 })) ∧
  (∀ (s : State) (x : Sensors),
      exec .resetAssertion s = .next { s with power := { s.power with resetAsserted := true } } ∧
      exec .supplyFall s = .next
        { s with
          queue := s.queue.map fun e => { e with inCarriage := false }
          power := { s.power with supplyOk := false, coldPending := true } } ∧
      (s.power.resetAsserted = true →
        exec (.coldReset x) s = .next { s with power := { s.power with supplyOk := true, coldPending := true } }) ∧
      (s.power.supplyOk = false → exec (.warmReset x) s = .next { s with power := { s.power with resetAsserted := false } }) ∧
      (s.power.supplyOk = true → s.power.coldPending = true →
        exec (.warmReset x) s = exec (.coldReset x) { s with power := { s.power with resetAsserted := false } }))

/-- R186, R188: no command but a reset, and what holds one, changes the waiting commands, the power lines, the straps, the
configuration memory or the image; and what single commands alone can change: the tracker state, the clock, the arrival counter, the
contest table's new records, the intake mode. The waiting commands are the queue of log 1; that the clock stands still through every
command but SECOND_TICK is logs 2 and 3; that no command writes straps and configuration memory is log 9. -/
def Obligations.CommandsFrame : Prop :=
  ∀ (c : Instr) (s t : State), resets c = false → exec c s = .next t →
    (t.pending = s.pending ∧ t.power = s.power ∧ t.straps = s.straps ∧ t.memory = s.memory ∧ t.image = s.image) ∧
    (tracks c = false → t.tracker = s.tracker) ∧
    (c ≠ .secondTick → t.ms = s.ms) ∧
    (grants c = false → t.arrival = s.arrival) ∧
    (makesRecords c = false → ∀ x ∈ t.contests, ∃ y ∈ s.contests, y.tote = x.tote) ∧
    (setsMode c = false → t.mode = s.mode ∧ t.requester = s.requester ∨
      s.mode.closing = true ∧ t.mode = .closed ∧ t.requester = none)

/-- The journal and the fault record only grow, but for a FETCH and a CLEAR_FAULTS (R163, R173). -/
def Obligations.JournalAndFaultsGrow : Prop :=
  ∀ (c : Instr) (s t : State), resets c = false → exec c s = .next t →
    (fetches c = false → s.journal.entries <+: t.journal.entries ∧ t.journal.oldest = s.journal.oldest) ∧
    (clears c = false → (∀ k : FaultKind, maskHas s.faults.sticky k = true → maskHas t.faults.sticky k = true) ∧
      ∀ f, s.faults.first = some f → t.faults.first = some f)

/-! ### Slot Tracker -/

/-- R2: slots, distance and merge slot are the non-negative remainders of the rule's differences. -/
def Obligations.SlotsAndDistancesAreRemainders : Prop :=
  ∀ s : State, 0 < s.cfg.loopLength →
    (∀ x : Nat, (s.slotAt x : Int) = ((x : Int) - s.tracker.phase) % s.cfg.loopLength) ∧
    (s.readerSlot : Int) = ((s.cfg.reader : Int) - s.tracker.phase) % s.cfg.loopLength ∧
    (s.mergeSlot : Int) = ((s.cfg.mergePoint : Int) - s.tracker.phase) % s.cfg.loopLength ∧
    (∀ slot : Nat, (s.distance slot : Int) = ((s.cfg.divertPoint : Int) - slot - s.tracker.phase) % s.cfg.loopLength ∧
      s.distance slot < s.cfg.loopLength)

/-- R3: a pulse raises the count; the pulse that fills it returns it to 0 and takes an advance; home marks, reader reports and lane
entries leave it. -/
def Obligations.EncoderPulseCounts : Prop :=
  ∀ s : State, s.live = true →
    (s.tracker.prescale + 1 < s.cfg.prescale →
      exec .encoderPulse s = .next { s with tracker := { s.tracker with prescale := s.tracker.prescale + 1 } }) ∧
    (s.cfg.prescale ≤ s.tracker.prescale + 1 →
      exec .encoderPulse s = exec .advance s ∧ ∃ t, exec .advance s = .next t ∧ t.tracker.prescale = 0) ∧
    (∀ t, s.tracker.prescale < s.cfg.prescale → exec .encoderPulse s = .next t → t.tracker.prescale < s.cfg.prescale) ∧
    (∀ c t, (c = .homeMark ∨ (∃ r, c = .readerReport r) ∨ c = .laneEntry) → exec c s = .next t →
      t.tracker.prescale = s.tracker.prescale)

/-- R4, R10, R15: an advance raises the phase, opens a read window, reports a slot that had no report, and ages the approach queue. R5: it
notes its own time as that of the previous advance. Log 5, beside R3: ADVANCE is also a command, and leaves the prescale count at 0
whatever the count was. -/
def Obligations.AdvanceMovesTheLoop : Prop :=
  ∀ s : State, s.live = true → ∃ t, exec .advance s = .next t ∧
    t.tracker.prescale = 0 ∧ t.tracker.phase = (s.tracker.phase + 1) % s.cfg.loopLength ∧ t.tracker.homed = s.tracker.homed ∧
    t.tracker.readFlag = false ∧ t.tracker.prevAdvance = some s.ms ∧
    (s.tracker.readFlag = false → maskHas t.faults.sticky .readFail = true ∧
      (s.faults.first = none →
        t.faults.first = some { kind := .readFail, seconds := s.now, place := s.readerSlot, bytes := [] })) ∧
    (ApproachOk s.cfg.depth s.tracker.readFlag s.tracker.approach →
      t.tracker.approach =
        (s.tracker.approach.map fun e => { e with remaining := e.remaining - 1 }).filter fun e => e.remaining ≠ 0)

/-- R5: the pitch history; R6: the pitch period. -/
def Obligations.PitchHistoryAndPeriod : Prop :=
  (∀ s : State, s.live = true →
      (∃ t, exec .advance s = .next t ∧
        (s.tracker.prevAdvance = none → t.tracker.history = s.tracker.history) ∧
        (∀ p, s.tracker.prevAdvance = some p → s.tracker.history.length < 16 →
          t.tracker.history = s.tracker.history ++ [min (s.ms - p) 5000]) ∧
        (∀ p, s.tracker.prevAdvance = some p → s.tracker.history.length = 16 →
          t.tracker.history = s.tracker.history.drop 1 ++ [min (s.ms - p) 5000])) ∧
      (∀ t, exec .homeMark s = .next t → t.tracker.history = s.tracker.history)) ∧
  (∀ s : State,
      (s.tracker.history.length < 16 → s.pitch = s.cfg.pitch) ∧
      (s.tracker.history.length = 16 → s.pitch = max 20 (min 5000 (s.tracker.history.sum / 16))) ∧
      s.statusData.pitch = s.pitch)

/-- R7, R8: a home mark; on a bench with no contest record nothing else changes. R79: with the correction the passage of slot 0 is
announced to the contest records. -/
def Obligations.HomeMarkFixesPhase : Prop :=
  ∀ s : State, s.live = true →
    let corrected : Tracker :=
      { s.tracker with
        phase := s.cfg.reader, homed := true
        approach := s.tracker.approach.map fun e =>
          { e with slot := subMod s.cfg.loopLength (s.cfg.reader + s.cfg.depth) (e.remaining + s.cfg.reader) }
        watch := s.tracker.watch.map fun e =>
          { e with slot := subMod s.cfg.loopLength (s.cfg.divertPoint + e.aged) s.cfg.reader } }
    (s.tracker.homed = true → s.tracker.phase = s.cfg.reader → exec .homeMark s = .next s) ∧
    (s.tracker.homed = false →
      ∃ t, exec .homeMark s = .next t ∧ t.tracker = corrected ∧ (s.contests = [] → t = { s with tracker := corrected })) ∧
    (s.tracker.homed = true → s.tracker.phase ≠ s.cfg.reader →
      ∃ t, exec .homeMark s = .next t ∧ t.tracker = corrected ∧ maskHas t.faults.sticky .phaseSlip = true ∧
        (s.contests = [] →
          t = { s.recordFault .phaseSlip s.readerSlot (BitVec.ofNat 32 s.tracker.phase) [] with tracker := corrected })) ∧
    ((s.tracker.homed = false ∨ s.tracker.phase ≠ s.cfg.reader) → (s.contests.map (·.tote)).Nodup →
      ∃ t, exec .homeMark s = .next t ∧ ∀ c ∈ s.contests,
        (c.state ≠ .awaitingSlot → c.state ≠ .lastChance → t.contestOf c.tote = some c) ∧
        (c.state = .awaitingSlot → c.slot = 0 → t.contestOf c.tote = some { c with state := .lastChance, window := 0 }) ∧
        (c.state = .awaitingSlot → c.slot ≠ 0 → t.contestOf c.tote = some c) ∧
        (c.state = .lastChance → c.window = 0 → t.contestOf c.tote = some { c with window := 1 }) ∧
        (c.state = .lastChance → 1 ≤ c.window → c.readMark = false → t.contestOf c.tote = none) ∧
        (c.state = .lastChance → 1 ≤ c.window → c.readMark = true →
          t.contestOf c.tote = some { c with window := max 2 c.window }))

/-- R10 to R12: reader reports and the entries they make. -/
def Obligations.ReaderReportMakesEntry : Prop :=
  ∀ s : State, s.live = true →
    let entry (id : Option ToteId) : ApproachEntry := { id := id, slot := s.readerSlot, remaining := s.cfg.depth }
    let taken (es : List ApproachEntry) : State :=
      { s with tracker := { s.tracker with readFlag := true, approach := s.tracker.approach ++ es } }
    (∀ r, s.tracker.readFlag = true → exec (.readerReport r) s = .next s) ∧
    (s.tracker.readFlag = false →
      exec (.readerReport .empty) s = .next (taken []) ∧
      exec (.readerReport .unreadable) s = .next ((taken [entry none]).recordFault .readFail s.readerSlot 0 []) ∧
      ∀ t : ToteId,
        ((∃ e ∈ s.tracker.approach, e.id = some t) →
          exec (.readerReport (.tote t)) s = .next ((taken [entry none]).recordFault .duplicateRead s.readerSlot t [])) ∧
        ((∀ e ∈ s.tracker.approach, e.id ≠ some t) →
          ∃ u, exec (.readerReport (.tote t)) s = .next u ∧ u.tracker = (taken [entry (some t)]).tracker ∧
            (s.tracker.homed = false → u = taken [entry (some t)])))

/-- R74, R75: a report that made an entry for a tote, on a HOMED bench: the read mark of a claim, or a late take; and no late take for a
tote without roster entry, with a holder, or with its round still open. A late take is scored with d = D (R47) and the exposure less the
seconds since the offer, and makes a record in WON, marked late, with no timer. Log 3: the round counts as over from the millisecond of its close
time on. -/
def Obligations.ReaderReportMarksOrTakesLate : Prop :=
  ∀ (s : State) (t : ToteId), s.live = true → s.tracker.homed = true → s.tracker.readFlag = false →
    (∀ e ∈ s.tracker.approach, e.id ≠ some t) →
    let s1 : State :=
      { s with
        tracker :=
          { s.tracker with
            readFlag := true
            approach := s.tracker.approach ++ [{ id := some t, slot := s.readerSlot, remaining := s.cfg.depth }] } }
    (∀ c, s.contestOf t = some c → c.state = .awaitingSlot ∨ c.state = .lastChance →
      exec (.readerReport (.tote t)) s = .next (s1.updContest t fun x => { x with readMark := true })) ∧
    (∀ c, s.contestOf t = some c → c.state ≠ .awaitingSlot → c.state ≠ .lastChance →
      exec (.readerReport (.tote t)) s = .next s1) ∧
    (s.contestOf t = none → s.toteStands t = true → exec (.readerReport (.tote t)) s = .next s1) ∧
    (s.contestOf t = none → (∀ r, s.rosterOf t = some r → r.holder ≠ none ∨ s.ms < r.closeAt) →
      exec (.readerReport (.tote t)) s = .next s1) ∧
    (∀ r, s.contestOf t = none → s.toteStands t = false → s.rosterOf t = some r →
      r.holder = none → r.closeAt ≤ s.ms →
      let a := s.bidForm
        { cls := r.cls, comps := r.comps, exposure := r.exposure - (s.now - r.heard), dist := s.cfg.depth, late := true }
      (a.score = 0 → exec (.readerReport (.tote t)) s = .next { s1 with lanes := { weight := a.weight, time := a.time } }) ∧
      (1 ≤ a.score →
        exec (.readerReport (.tote t)) s = .next (State.queueFrame
          { s1 with
            lanes := { weight := a.weight, time := a.time }
            lines := bindLines a.listed .provisional (.contest t) s.lines
            contests := s.contests ++
              [{ tote := t, slot := s.readerSlot, cls := r.cls, comps := r.comps, exposure := r.exposure, heard := r.heard
                 key := { score := a.score, dist := s.cfg.depth, addr := s.cfg.address }
                 bestOther := none, state := .won, roundTimer := none, window := 0, readMark := false, bound := a.listed
                 saturated := a.saturated, late := true }] }
          { score := a.score, dist := s.cfg.depth, src := s.cfg.address, first := 1, last := 62, payload := .take t true })))

/-- R16, R18, R76: the divert decision on an entry at the divert point. Logs 6 and 20: the decision is a command, and a stroke of the
actuator is counted. -/
def Obligations.DivertFiresOnClaimedTote : Prop :=
  ∀ (s : State) (e : ApproachEntry) (rest : List ApproachEntry), s.live = true → s.tracker.approach = e :: rest →
    (e.remaining ≠ 0 → exec .divert s = .next s) ∧
    (∀ (t : ToteId) (c : Contest), e.remaining = 0 → e.id = some t → s.tracker.homed = true → s.contestOf t = some c →
      (c.state = .awaitingSlot ∨ c.state = .lastChance) →
      exec .divert s = .next
        { s with
          contests := s.contests.map fun x => if x.tote == t then { x with state := .diverting } else x
          tracker :=
            { s.tracker with
              approach := rest, watch := s.tracker.watch ++ [{ tote := t, slot := e.slot, aged := 0 }]
              divertStrokes := s.tracker.divertStrokes + 1 } }) ∧
    (e.remaining = 0 →
      (s.tracker.homed = false ∨ e.id = none ∨
        ∃ t, e.id = some t ∧ ∀ c, s.contestOf t = some c → c.state ≠ .awaitingSlot ∧ c.state ≠ .lastChance) →
      exec .divert s = .next { s with tracker := { s.tracker with approach := rest } })

/-- R20, R78: a divert miss; R19, R77, R89, R90: a lane entry lands the oldest divert awaiting. Logs 6 and 17: the miss is a command,
and the order after a landing is exposure, routing, completion. -/
def Obligations.LandingOrMiss : Prop :=
  (∀ (s : State) (e : WatchEntry) (rest : List WatchEntry), s.live = true → s.tracker.watch = e :: rest →
      let missed := State.recordFault { s with tracker := { s.tracker with watch := rest } } .divertMiss e.slot e.tote []
      (e.aged < 2 → exec .divertMiss s = .next s) ∧
      (2 ≤ e.aged → (∀ c, s.contestOf e.tote = some c → c.state ≠ .diverting) → exec .divertMiss s = .next missed) ∧
      (∀ c, 2 ≤ e.aged → s.contestOf e.tote = some c → c.state = .diverting →
        exec .divertMiss s = .next (missed.endContest c .relinquished e.slot) ∧
        ∀ t, exec .divertMiss s = .next t → t.contestOf e.tote = none)) ∧
  (∀ s : State, s.live = true →
      (s.tracker.watch = [] → exec .laneEntry s = .next s) ∧
      (∀ e rest, s.tracker.watch = e :: rest → (∀ c, s.contestOf e.tote = some c → c.state ≠ .diverting) →
        exec .laneEntry s = .next { s with tracker := { s.tracker with watch := rest } }) ∧
      (∀ e rest c, s.tracker.watch = e :: rest → s.contestOf e.tote = some c → c.state = .diverting →
        let left := exposureAfter c.exposure c.heard s.now
        let x : Tote :=
          { id := some c.tote, cls := some c.cls, comps := c.comps.map fun y => { sku := y.sku, qty := y.qty.toNat, emptied := false },
            exposure := if c.cls = .ambient then none else some left, landed := s.now, bound := c.bound, cause := none,
            spentTaken := false }
        let landed : State :=
          { s with
            tracker := { s.tracker with watch := rest }
            contests := s.contests.filter fun y => y.tote != c.tote
            lines := bindLines c.bound .reserved (.tote c.tote) s.lines
            floor := { s.floor with lane := s.floor.lane ++ [x] }
            roster := s.roster.filter fun r => r.tote != c.tote
            journal := s.journal.write s.now
              (.landed c.tote (s.floor.lane.length + 1) (if c.cls = .ambient then 0 else left) c.key.score c.saturated) }
        exec .laneEntry s =
          .next ((((landed.queueToAll (.landed c.tote)).spendIfDue c.tote).route).completionTest)))

/-! ### Contests -/

/-- R63, R66, R67, R179: an OFFER refreshes the roster and is handled by the bench's own record for its tote; scored, it makes a record
and queues its BID. R63, R64: the entry stands at the newest end; a full roster discards the oldest entry without a holder, or else the
oldest. Logs 11, 12 and 22: the receive path is empty after it, the bytes captured of an OFFER given as a command, 0 for AMBIENT. -/
def Obligations.OfferTaken : Prop :=
  (∀ (s : State) (o : OfferFrame), s.live = true →
      let exposure := if o.cls = .ambient then 0 else 4 * o.exposureField
      let heard : State :=
        { s with
          received := none
          roster := refreshRoster s.roster
            { tote := o.tote, cls := o.cls, comps := o.comps, exposure := exposure, heard := s.now
              closeAt := s.ms + s.cfg.roundMs, holder := none } }
      let scored (u : State) : State :=
        let a := u.bidForm { cls := o.cls, comps := o.comps, exposure := exposure, dist := u.distance o.slot, late := false }
        if a.score = 0 then { u with lanes := { weight := a.weight, time := a.time } }
        else
          State.queueFrame
            { u with
              lanes := { weight := a.weight, time := a.time }
              lines := bindLines a.listed .provisional (.contest o.tote) u.lines
              contests := u.contests ++
                [{ tote := o.tote, slot := o.slot, cls := o.cls, comps := o.comps, exposure := exposure, heard := u.now
                   key := { score := a.score, dist := u.distance o.slot, addr := u.cfg.address }
                   bestOther := none, state := .bidQueued, roundTimer := some (u.ms + u.cfg.roundMs), window := 0
                   readMark := false, bound := a.listed, saturated := a.saturated, late := false }] }
            { score := a.score, dist := u.distance o.slot, src := u.cfg.address, first := 1, last := 62
              payload := .bid o.tote }
      (s.cfg.loopLength ≤ o.slot →
        exec (.offer o) s = .next (State.recordFrameFault { s with received := none } .frameForm (offerBody o))) ∧
      (o.slot < s.cfg.loopLength → (o.comps.length = 1 ∨ o.comps.length = 2 ∨ o.comps.length = 4) →
        (s.toteStands o.tote = true → exec (.offer o) s = .next heard) ∧
        (s.toteStands o.tote = false → s.contestOf o.tote = none → exec (.offer o) s = .next (scored heard)) ∧
        (∀ c, s.toteStands o.tote = false → s.contestOf o.tote = some c →
          (c.state = .diverting → exec (.offer o) s = .next heard) ∧
          ((c.state = .awaitingSlot ∨ c.state = .lastChance) → o.cause = .relinquish → o.src ≠ s.cfg.address →
            exec (.offer o) s = .next heard) ∧
          ((c.state = .awaitingSlot ∨ c.state = .lastChance) → (o.cause ≠ .relinquish ∨ o.src = s.cfg.address) →
            exec (.offer o) s = .next (scored (heard.endContest c .lapsed c.slot))) ∧
          ((c.state = .bidQueued ∨ c.state = .bidSent ∨ c.state = .won) →
            exec (.offer o) s = .next (scored (heard.endContest c .lost c.slot)))))) ∧
  (∀ (r : List RosterEntry) (e : RosterEntry),
      ((∃ x ∈ r, x.tote = e.tote) → refreshRoster r e = (r.filter fun x => x.tote != e.tote) ++ [e]) ∧
      ((∀ x ∈ r, x.tote ≠ e.tote) →
        (r.length < 48 → refreshRoster r e = r ++ [e]) ∧
        (48 ≤ r.length → (∀ x ∈ r, x.holder ≠ none) → refreshRoster r e = r.drop 1 ++ [e]) ∧
        ∀ before d after, r = before ++ d :: after → 48 ≤ r.length → d.holder = none → (∀ x ∈ before, x.holder ≠ none) →
          refreshRoster r e = before ++ after ++ [e]))

/-- R69, R84: a BID heard. -/
def Obligations.BidHeard : Prop :=
  ∀ (s : State) (src score dist : Nat) (t : ToteId), s.live = true →
    let k : Key := { score := score, dist := dist, addr := src }
    let r := s.clearReceived
    (src = s.cfg.address → exec (.bid src score dist t) s = .next r) ∧
    (src ≠ s.cfg.address → s.contestOf t = none → exec (.bid src score dist t) s = .next r) ∧
    (∀ c, src ≠ s.cfg.address → s.contestOf t = some c →
      let best := match c.bestOther with
        | none => k
        | some b => if k.beats b then k else b
      (c.state ≠ .bidQueued → c.state ≠ .bidSent → exec (.bid src score dist t) s = .next r) ∧
      ((c.state = .bidSent ∨ c.state = .bidQueued ∧ k.beats c.key = false) →
        exec (.bid src score dist t) s = .next (r.updContest t fun x => { x with bestOther := some best })) ∧
      (c.state = .bidQueued → k.beats c.key = true →
        exec (.bid src score dist t) s = .next
          ((r.updContest t fun x => { x with bestOther := some best }).endContest { c with bestOther := some best } .withdrawn
            c.slot)))

/-- R65, R73: a TAKE heard. -/
def Obligations.TakeHeard : Prop :=
  ∀ (s : State) (src score dist : Nat) (t : ToteId) (late : Bool), s.live = true →
    let k : Key := { score := score, dist := dist, addr := src }
    let held : State :=
      { s with
        received := none
        roster := s.roster.map fun r =>
          if r.tote == t then
            { r with holder := some (match r.holder with
                | none => k
                | some b => if k.beats b then k else b) }
          else r }
    (src = s.cfg.address → exec (.take src score dist t late) s = .next held) ∧
    (src ≠ s.cfg.address → s.contestOf t = none → exec (.take src score dist t late) s = .next held) ∧
    (∀ c, src ≠ s.cfg.address → s.contestOf t = some c →
      ((c.state = .bidQueued ∨ c.state = .bidSent) →
        exec (.take src score dist t late) s = .next (held.endContest c .lost c.slot)) ∧
      ((c.state = .won ∨ c.state = .awaitingSlot ∨ c.state = .lastChance) → k.beats c.key = true →
        exec (.take src score dist t late) s = .next (held.endContest c .yielded c.slot)) ∧
      ((c.state = .won ∨ c.state = .awaitingSlot ∨ c.state = .lastChance) → k.beats c.key = false →
        exec (.take src score dist t late) s = .next held) ∧
      (c.state = .diverting → exec (.take src score dist t late) s = .next held))

/-- R65, R80, R84: a LANDED or an EXIT heard. -/
def Obligations.LandedAndExitHeard : Prop :=
  ∀ (s : State) (src : Nat) (t : ToteId), s.live = true →
    let gone : State := { s with received := none, roster := s.roster.filter fun r => r.tote != t }
    (src = s.cfg.address → exec (.landed src t) s = .next gone) ∧
    (s.contestOf t = none → exec (.landed src t) s = .next gone ∧ exec (.exit src t) s = .next gone) ∧
    (∀ c, s.contestOf t = some c →
      (c.state = .diverting → exec (.landed src t) s = .next gone ∧ exec (.exit src t) s = .next gone) ∧
      ((c.state = .bidQueued ∨ c.state = .bidSent ∨ c.state = .won) →
        exec (.exit src t) s = .next (gone.endContest c .lost c.slot) ∧
        (src ≠ s.cfg.address → exec (.landed src t) s = .next (gone.endContest c .lost c.slot))) ∧
      ((c.state = .awaitingSlot ∨ c.state = .lastChance) →
        exec (.exit src t) s = .next (gone.endContest c .lapsed c.slot) ∧
        (src ≠ s.cfg.address → exec (.landed src t) s = .next (gone.endContest c .lapsed c.slot))))

/-- R68, R71: round close. Log 3: the roster's round is over too. -/
def Obligations.RoundCloseDecides : Prop :=
  ∀ (s : State) (t : ToteId), s.live = true →
    let may := s.tracker.homed = true ∧ s.mode = .opened ∧ s.journal.bound = false
    let closing : State :=
      { s with roster := s.roster.map fun r => if r.tote == t then { r with closeAt := min r.closeAt s.ms } else r }
    (s.contestOf t = none → exec (.roundClose t) s = .next s) ∧
    (∀ c, s.contestOf t = some c →
      let beaten := match c.bestOther with
        | none => false
        | some b => b.beats c.key
      (c.roundTimer = none → exec (.roundClose t) s = .next s) ∧
      (c.roundTimer ≠ none → c.state = .bidSent → beaten = false → may →
        exec (.roundClose t) s = .next (State.queueFrame
          { closing with
            contests := s.contests.map fun x => if x.tote == t then { x with state := .won, roundTimer := none } else x }
          { score := c.key.score, dist := c.key.dist, src := c.key.addr, first := 1, last := 62
            payload := .take t c.late })) ∧
      (c.roundTimer ≠ none → c.state = .bidSent → (beaten = true ∨ ¬may) →
        exec (.roundClose t) s = .next (closing.endContest c .lost c.slot)) ∧
      (c.roundTimer ≠ none → c.state = .bidQueued → exec (.roundClose t) s = .next (closing.endContest c .lost c.slot)))

/-- R62, R81, R83: the steps of an ending: frames withdrawn, lines returned, CLAIM_END, the relinquish OFFER of a claim given back, the
record removed; then the allocation passes where a line was returned, and the completion test (R156). First where no tote is presented
and no close pending, so that nothing follows; then in full. And what withdrawing the frames of a record takes off the transmit queue
(log 18 marks one that stays in carriage). -/
def Obligations.ContestEndingSteps : Prop :=
  (∀ (s : State) (c : Contest) (o : ContestOutcome) (slot : Nat), o ≠ .landed → o ≠ .relinquished →
      s.floor.presentation = [] → s.mode.closing = false →
      let claimed := c.state = .awaitingSlot ∨ c.state = .lastChance ∨ c.state = .diverting
      s.endContest c o slot =
        { s with
          queue := withdrawFrames c.tote s.queue
          lines := s.lines.map fun l =>
            if c.bound.any (fun b => l.order == b.order && l.lineNo == b.lineNo) then
              { l with state := .waiting, binding := none }
            else l
          journal :=
            if claimed ∧ (o = .yielded ∨ o = .lapsed) then s.journal.write s.now (.claimEnd c.tote o c.key.score)
            else s.journal
          contests := s.contests.filter fun x => x.tote != c.tote }) ∧
  (∀ (s : State) (c : Contest) (slot : Nat), s.queue.length < Config.queueCapacity →
      (c.state = .awaitingSlot ∨ c.state = .lastChance ∨ c.state = .diverting) →
      s.floor.presentation = [] → s.mode.closing = false →
      let u := s.endContest c .relinquished slot
      u.contests = (s.contests.filter fun x => x.tote != c.tote) ∧
      u.journal = s.journal.write s.now (.claimEnd c.tote .relinquished c.key.score) ∧
      (∀ r ∈ u.roster, r.tote = c.tote → r.holder = none) ∧
      ∃ e ∈ u.queue, e.inCarriage = false ∧ e.frame =
        { score := 0, dist := 0, src := s.cfg.address, first := 1, last := 62
          payload := .offer c.tote slot .relinquish c.cls c.comps
            (if c.cls = .ambient then 0 else (c.exposure - (s.now - c.heard)) / 4) }) ∧
  (∀ (s : State) (c : Contest) (o : ContestOutcome) (slot : Nat), o ≠ .landed →
      let claimed := c.state = .awaitingSlot ∨ c.state = .lastChance ∨ c.state = .diverting
      let freed : State :=
        { s with
          queue := withdrawFrames c.tote s.queue
          lines := s.lines.map fun l =>
            if c.bound.any (fun b => l.order == b.order && l.lineNo == b.lineNo) then
              { l with state := .waiting, binding := none }
            else l
          journal :=
            if claimed ∧ (o = .yielded ∨ o = .lapsed ∨ o = .relinquished) then
              s.journal.write s.now (.claimEnd c.tote o c.key.score)
            else s.journal }
      let offered : State :=
        if o = .relinquished then
          State.queueFrame { freed with roster := s.roster.map fun r => if r.tote == c.tote then { r with holder := none } else r }
            { score := 0, dist := 0, src := s.cfg.address, first := 1, last := 62
              payload := .offer c.tote slot .relinquish c.cls c.comps
                (if c.cls = .ambient then 0 else (c.exposure - (s.now - c.heard)) / 4) }
        else freed
      let ended : State := { offered with contests := s.contests.filter fun x => x.tote != c.tote }
      (c.bound = [] → s.endContest c o slot = ended.completionTest) ∧
      (c.bound ≠ [] → s.endContest c o slot = (ended.floor.presentation.foldl State.allocationPass ended).completionTest)) ∧
  (∀ (t : ToteId) (q : List TxEntry),
      withdrawFrames t q = q.filterMap fun e =>
        if e.frame.payload = .bid t ∨ e.frame.payload = .take t true ∨ e.frame.payload = .take t false then
          if e.inCarriage = true then some { e with ownerEnded := true } else none
        else some e)

/-- R4, R79: the slot passage that an advance announces, on records whose totes are neither at the divert point nor awaited in the lane;
and the close of a lapse window. Log 6: the close is a command. -/
def Obligations.SlotPassagesAndLapse : Prop :=
  (∀ (s : State) (c : Contest), s.live = true → s.tracker.homed = true → s.tracker.approach = [] → s.tracker.watch = [] →
      (s.contests.map (·.tote)).Nodup → c ∈ s.contests →
      let passed := subMod s.cfg.loopLength s.cfg.reader ((s.tracker.phase + 1) % s.cfg.loopLength)
      ∃ t, exec .advance s = .next t ∧
        (c.state = .awaitingSlot → c.slot = passed → t.contestOf c.tote = some { c with state := .lastChance, window := 0 }) ∧
        (c.state = .awaitingSlot → c.slot ≠ passed → t.contestOf c.tote = some c) ∧
        (c.state = .lastChance → c.window = 0 → t.contestOf c.tote = some { c with window := 1 }) ∧
        (c.state = .lastChance → c.window = 1 → c.readMark = false → t.contestOf c.tote = none) ∧
        (c.state = .lastChance → c.window = 1 → c.readMark = true → t.contestOf c.tote = some { c with window := 2 })) ∧
  (∀ (s : State) (t : ToteId), s.live = true →
      (s.contestOf t = none → exec (.lapseWindowClose t) s = .next s) ∧
      (∀ c, s.contestOf t = some c →
        (c.state = .lastChance → 2 ≤ c.window → c.readMark = false →
          exec (.lapseWindowClose t) s = .next (s.endContest c .lapsed c.slot)) ∧
        ((c.state ≠ .lastChance ∨ c.window < 2 ∨ c.readMark = true) → exec (.lapseWindowClose t) s = .next s)))

/-- R70, R72, R177: the carriage of the own BID, of the own TAKE and of other frames, the dropped TAKEs tried again after it (log 32 gives
their order; with a TAKE queued or in carriage for every record in WON there is none). Log 18: the BID or TAKE of a record that has ended
has no effect on the contest table. Log 11: the carried frame stands in the receive path. Log 26: a carriage of another kind than its
command names is not taken. -/
def Obligations.FramesCarried : Prop :=
  (∀ (s : State) (e : TxEntry), s.live = true → s.carried = some e →
      let sent : State := { s with queue := s.queue.filter fun x => !x.inCarriage, received := some e.frame }
      let retried (u : State) : State := (u.contests.map (·.tote)).foldl State.requeueTake u
      (∀ t, e.frame.payload = .bid t →
        exec .takeCarried s = .next s ∧ exec .frameCarried s = .next s ∧
        (e.ownerEnded = true → exec .bidCarried s = .next (retried sent)) ∧
        ((∀ c, s.contestOf t = some c → c.state ≠ .bidQueued) → exec .bidCarried s = .next (retried sent)) ∧
        (∀ c, s.contestOf t = some c → e.ownerEnded = false → c.state = .bidQueued →
          exec .bidCarried s = .next (retried
            { sent with contests := s.contests.map fun x => if x.tote == t then { x with state := .bidSent } else x }))) ∧
      (∀ t late, e.frame.payload = .take t late →
        exec .bidCarried s = .next s ∧ exec .frameCarried s = .next s ∧
        (e.ownerEnded = true → exec .takeCarried s = .next (retried sent)) ∧
        ((∀ c, s.contestOf t = some c → c.state ≠ .won) → exec .takeCarried s = .next (retried sent)) ∧
        (∀ c, s.contestOf t = some c → e.ownerEnded = false → c.state = .won →
          let claimed : State :=
            { sent with
              contests := s.contests.map fun x =>
                if x.tote == t then { x with state := .awaitingSlot, window := 0, readMark := false } else x
              lines := bindLines c.bound .reserved (.contest t) s.lines }
          (c.bound ≠ [] → s.mode ≠ .closingHard → exec .takeCarried s = .next (retried claimed)) ∧
          ((c.bound = [] ∨ s.mode = .closingHard) →
            exec .takeCarried s = .next (retried (claimed.endContest
              { c with state := .awaitingSlot, window := 0, readMark := false } .relinquished c.slot)) ∧
            ∀ u, exec .takeCarried s = .next u → u.contestOf t = none))) ∧
      ((∀ t, e.frame.payload ≠ .bid t) → (∀ t late, e.frame.payload ≠ .take t late) →
        exec .bidCarried s = .next s ∧ exec .takeCarried s = .next s ∧ exec .frameCarried s = .next (retried sent)) ∧
      ((∀ x ∈ s.contests, x.state = .won → ∃ f ∈ s.queue, f.inCarriage = false ∧ f.ownerEnded = false ∧
          (f.frame.payload = .take x.tote true ∨ f.frame.payload = .take x.tote false)) → retried sent = sent)) ∧
  (∀ s : State, s.live = true → s.carried = none →
      exec .bidCarried s = .next s ∧ exec .takeCarried s = .next s ∧ exec .frameCarried s = .next s) ∧
  (∀ (s : State) (t : ToteId),
      let waits := ∃ f ∈ s.queue, f.ownerEnded = false ∧ (f.frame.payload = .take t true ∨ f.frame.payload = .take t false)
      let may := s.tracker.homed = true ∧ s.mode = .opened ∧ s.journal.bound = false
      ((waits ∨ ∀ c, s.contestOf t = some c → c.state ≠ .won) → s.requeueTake t = s) ∧
      (∀ c, s.contestOf t = some c → c.state = .won → ¬waits →
        (may → s.requeueTake t = s.queueFrame
          { score := c.key.score, dist := c.key.dist, src := c.key.addr, first := 1, last := 62, payload := .take t c.late }) ∧
        (¬may → s.requeueTake t = s.endContest c .lost c.slot)))

/-! ### Scoring -/

/-- R55: the comparison of keys. -/
def Obligations.KeyOrder : Prop :=
  (∀ a b : Key, a.beats b = true ↔
    b.score < a.score ∨ a.score = b.score ∧ (a.dist < b.dist ∨ a.dist = b.dist ∧ a.addr < b.addr)) ∧
  (∀ a : Key, a.beats a = false) ∧
  (∀ a b c : Key, a.beats b = true → b.beats c = true → a.beats c = true) ∧
  (∀ a b : Key, a.addr ≠ b.addr → a.beats b = true ∨ b.beats a = true)

/-- R24: the due order sorts the candidate lines; R52: the urgency of a line. -/
def Obligations.DueOrderAndUrgency : Prop :=
  (∀ ls : List Line, (sortDue ls).Perm ls ∧
      (sortDue ls).Pairwise fun a b => a.due < b.due ∨ a.due = b.due ∧ a.arrival ≤ b.arrival) ∧
  (∀ (minute : Nat) (due : Int),
      (31 ≤ due - minute → urgency minute due = 1) ∧ (due = minute → urgency minute due = 32) ∧
      (due - minute ≤ -31 → urgency minute due = 63) ∧
      (-31 ≤ due - minute → due - minute ≤ 31 → (urgency minute due : Int) = 32 - (due - minute)))

/-- R49, R50, R51, R53: a computation stays within its budget and its tote, and scores 0 exactly when it takes no line. R45: the
candidates, in due order, each with the first compartment of its SKU. R51: one candidate after another is taken, passed over or ends the
allocation. R52, R53: the score is the sum of urgency times units over the listed lines. -/
def Obligations.AllocationWithinBudget : Prop :=
  (∀ (s : State) (cls : TempClass) (skus : List Sku) (avail : List Nat) (budget : Option Int),
      let a := s.compute cls skus avail budget
      (∀ b, budget = some b → b ≤ 0 → a.listed = [] ∧ a.score = 0) ∧
      (∀ b, budget = some b → 1 ≤ b → (a.time : Int) ≤ b) ∧
      a.time = s.cfg.tLine * a.listed.length + s.cfg.tUnit * (a.listed.map (·.units)).sum ∧
      (∀ i, ((a.listed.filter fun x => x.comp == i + 1).map (·.units)).sum + a.avail.getD i 0 = avail.getD i 0) ∧
      (∀ x ∈ a.listed, 1 ≤ x.units ∧ ∃ l ∈ s.lines, l.order = x.order ∧ l.lineNo = x.lineNo ∧ l.state = .waiting ∧ l.cls = cls ∧
        x.units ≤ l.requested - l.picked) ∧
      (a.score = 0 ↔ a.listed = []) ∧
      ((∀ b, budget = some b → 1 ≤ b) →
        a = allocate { budget := budget, tLine := s.cfg.tLine, tUnit := s.cfg.tUnit, minute := s.minute }
          (s.candidates cls skus) { avail := avail, weight := 0, time := 0, listed := [] }) ∧
      ((s.lines.map fun l => (l.order, l.lineNo)).Nodup →
        let weight := (a.listed.map fun b =>
          match s.lineOf b with
          | none => 0
          | some l => urgency s.minute l.due * b.units).sum
        a.score = min weight 65535 ∧ (a.saturated = true ↔ 65535 < weight))) ∧
  (∀ (s : State) (cls : TempClass) (skus : List Sku),
      let cs := s.candidates cls skus
      (cs.map (·.1)).Perm (s.lines.filter fun l => l.state == .waiting && l.cls == cls && skus.contains l.sku) ∧
      (cs.map (·.1)).Pairwise (fun a b => a.due < b.due ∨ a.due = b.due ∧ a.arrival ≤ b.arrival) ∧
      ∀ x ∈ cs, 1 ≤ x.2 ∧ skus[x.2 - 1]? = some x.1.sku ∧ ∀ j, j < x.2 - 1 → skus[j]? ≠ some x.1.sku) ∧
  (∀ (r : AllocRule) (l : Line) (c : Nat) (rest : List (Line × Nat)) (a : Alloc),
      let m := min (l.requested - l.picked) (a.avail.getD (c - 1) 0)
      let time := r.tLine + m * r.tUnit
      allocate r [] a = a ∧
      (m = 0 → allocate r ((l, c) :: rest) a = allocate r rest a) ∧
      (∀ b, 1 ≤ m → r.budget = some b → b < a.time + time → allocate r ((l, c) :: rest) a = a) ∧
      (1 ≤ m → (∀ b, r.budget = some b → a.time + time ≤ b) →
        allocate r ((l, c) :: rest) a = allocate r rest
          { avail := a.avail.modify (c - 1) (· - m), weight := a.weight + urgency r.minute l.due * m, time := a.time + time
            listed := a.listed ++ [{ order := l.order, lineNo := l.lineNo, comp := c, units := m }] }))

/-- R46, R48, R49: the conditions of a bid-form computation, and its budget: exposure less travel less the backlog of every held tote's
lines. -/
def Obligations.EligibilityConditions : Prop :=
  ∀ (s : State) (q : BidQuery),
    (s.eligible q.cls q.dist q.late = true ↔
      s.tracker.homed = true ∧ s.mode = .opened ∧ s.journal.bound = false ∧ s.cfg.served.has q.cls = true ∧
        s.floor.lane.length + (s.floor.ports.filter fun y => y.tote.isSome).length + s.contests.length < s.cfg.places ∧
        (q.late = true ∨ s.cfg.settle ≤ q.dist)) ∧
    (s.eligible q.cls q.dist q.late = false → (s.bidForm q).score = 0 ∧ (s.bidForm q).listed = []) ∧
    (s.eligible q.cls q.dist q.late = true →
      s.bidForm q = s.compute q.cls (q.comps.map (·.sku)) (q.comps.map (·.qty.toNat))
        (if q.cls = .ambient then none
         else some ((q.exposure : Int) - ((q.dist * s.pitch + 999) / 1000 : Nat) -
           (min (s.floor.heldTotes.map fun x =>
             s.cfg.tLine * x.bound.length + s.cfg.tUnit * (x.bound.map (·.units)).sum).sum 65535 : Nat))))

/-! ### Bench floor -/

/-- R102: after routing is tested no lane head waits beside a suitable port, and one record goes to the lowest such port; R113: after
room is tested no port waits for room that the release lane has, and a port granted room fires its actuator, or, with its seat empty,
loses its record with a RELEASED entry and is VACANT. Log 20: strokes are counted. -/
def Obligations.RoutingAndGranting : Prop :=
  (∀ s : State, s.floor.portNums.Nodup →
      s.route.floor.lane = [] ∨ ∀ q ∈ s.route.floor.ports, ¬(q.state = .vacant ∧ q.occupied = false)) ∧
  (∀ (s : State) (x : Tote) (q : Port), s.floor.lane = [x] → s.floor.portNums.Nodup →
      s.floor.ports.find? (fun y => y.state == .vacant && !y.occupied) = some q →
      s.route =
        { s with
          floor :=
            { s.floor with
              lane := []
              ports := s.floor.ports.map fun y =>
                if y.num == q.num then
                  { y with state := .inbound, tote := some x, seatTimer := some (s.ms + 1000 * s.cfg.seatTimeout)
                           routerStrokes := y.routerStrokes + 1 }
                else y } }) ∧
  (∀ s : State, s.grantRoom.floor.releaseWait = [] ∨
      2 ≤ s.grantRoom.floor.releaseLane.length + (s.grantRoom.floor.ports.filter fun q => q.state == .releasing).length) ∧
  (∀ (s : State) (q : Port), s.floor.releaseWait = [q.num] → s.floor.port q.num = some q → q.occupied = true →
      s.floor.releaseLane.length + (s.floor.ports.filter fun y => y.state == .releasing).length < 2 →
      s.grantRoom =
        { s with
          floor :=
            { s.floor with
              releaseWait := []
              ports := s.floor.ports.map fun y =>
                if y.num == q.num then { y with state := .releasing, releaseStrokes := y.releaseStrokes + 1 } else y } }) ∧
  (∀ (s : State) (q : Port) (x : Tote), s.floor.releaseWait = [q.num] → s.floor.port q.num = some q → q.occupied = false →
      q.tote = some x →
      s.floor.releaseLane.length + (s.floor.ports.filter fun y => y.state == .releasing).length < 2 →
      s.grantRoom = State.route (State.completionTest
        { s with
          journal := s.journal.write s.now
            (.released x.id x.cause (x.exposure.getD 0) ((x.comps.map ToteComp.qty ++ [0, 0, 0, 0]).take 4))
          floor :=
            { s.floor with
              releaseWait := []
              ports := s.floor.ports.map fun y =>
                if y.num == q.num then { y with state := .vacant, tote := none, seatTimer := none } else y } }))

/-- R104: the seat event; a claimed or allocated tote on an open bench stays PRESENTED. -/
def Obligations.SeatEventPresents : Prop :=
  ∀ (s : State) (p : Nat) (q : Port), s.live = true → s.floor.port p = some q → q.state = .inbound → q.occupied = false →
    let seated : State :=
      { s with
        floor :=
          { s.floor with
            ports := s.floor.ports.map fun y =>
              if y.num == p then { y with state := .presented, seatTimer := none, occupied := true } else y
            presentation := s.floor.presentation ++ [p] } }
    exec (.seat p) s = .next (seated.allocationPass p) ∧
    (∀ x tid, q.tote = some x → x.id = some tid → x.bound ≠ [] → x.spent = false → s.mode ≠ .closingHard →
      ∃ t, exec (.seat p) s = .next t ∧ t.floor.presentation = s.floor.presentation ++ [p] ∧
        ∃ q', t.floor.port p = some q' ∧ q'.state = .presented ∧ q'.seatTimer = none ∧ q'.occupied = true)

/-- R57, R110: an allocation pass on the tote at a PRESENTED port, unspent and not in CLOSING_HARD. R42, R44, R50: it computes on the free
quantities, each compartment's quantity less the units of the lines bound on it and 0 where emptied, with the exposure less the time of
the bound lines as budget; for an orphan nothing. R24, R56: the lines listed join the tote's list, each at its place in due order. R153: inside the entry of a hard close
a pass only binds; the bench-floor steps of R154 return what it bound (log 15: `closeEntry` marks those steps). -/
def Obligations.AllocationPassBinds : Prop :=
  (∀ (s : State) (p : Nat) (x : Tote) (tid : ToteId), s.floor.presentedTote p = some x → x.id = some tid →
    let a := s.benchForm x
    let bound : State :=
      { s with
        lanes := { weight := a.weight, time := a.time }
        lines := bindLines a.listed .reserved (.tote tid) s.lines
        floor := s.floor.updPort p fun q =>
          { q with tote := q.tote.map fun y => { y with bound := s.mergeBound a.listed y.bound } } }
    (x.spent = false → s.mode ≠ .closingHard → a.listed ≠ [] → s.allocationPass p = bound.taskChoice) ∧
    (x.spent = false → s.mode ≠ .closingHard → a.listed = [] → x.bound = [] →
      ∃ q, (s.allocationPass p).floor.port p = some q ∧
        (q.state = .releaseWait ∨ q.state = .releasing ∨ q.state = .vacant ∨ q.state = .inbound)) ∧
    (s.closeEntry = true → s.mode = .closingHard → s.allocationPass p = bound)) ∧
  (∀ (s : State) (x : Tote),
      (x.cls = none → s.benchForm x = { avail := [], weight := 0, time := 0, listed := [] }) ∧
      ∀ cls, x.cls = some cls →
        s.benchForm x = s.compute cls (x.comps.map (·.sku))
          (x.comps.mapIdx fun i k =>
            if k.emptied then 0 else k.qty - ((x.bound.filter fun b => b.comp == i + 1).map (·.units)).sum)
          (if cls = .ambient then none
           else some ((x.exposure.getD 0 : Nat) -
             (s.cfg.tLine * x.bound.length + s.cfg.tUnit * (x.bound.map (·.units)).sum : Nat) : Int))) ∧
  (∀ (s : State) (new old : List BoundLine),
      let inOrder (a b : BoundLine) := ∀ x y, s.lineOf a = some x → s.lineOf b = some y →
        x.due < y.due ∨ x.due = y.due ∧ x.arrival ≤ y.arrival
      (s.mergeBound new old).Perm (new ++ old) ∧
      ((∀ b ∈ new ++ old, (s.lineOf b).isSome = true) → old.Pairwise inOrder → (s.mergeBound new old).Pairwise inOrder))

/-- R110, R111: the release test and its causes in order. -/
def Obligations.ReleaseTestCauses : Prop :=
  ∀ (s : State) (p : Nat) (x : Tote), s.floor.presentedTote p = some x →
    let lit := ∃ b ∈ x.bound, ∃ l, s.lineOf b = some l ∧ l.state = .active
    let waits (c : ReleaseCause) : State :=
      State.grantRoom
        { s with
          lines := returnLines (x.bound.filter (s.boundIn .reserved)) s.lines
          floor :=
            { s.floor with
              ports := s.floor.ports.map fun q =>
                if q.num == p then
                  { q with state := .releaseWait, tote := q.tote.map fun y => { y with cause := some c, bound := [] } }
                else q
              presentation := s.floor.presentation.filter (· != p)
              releaseWait := s.floor.releaseWait ++ [p] } }
    (lit → s.releaseTest p = s) ∧
    (¬lit → x.id = none → s.releaseTest p = waits .orphan) ∧
    (¬lit → x.id ≠ none → x.spent = true → s.releaseTest p = waits .spent) ∧
    (¬lit → x.id ≠ none → x.spent = false → s.mode = .closingHard → s.releaseTest p = waits .closeHard) ∧
    (¬lit → x.id ≠ none → x.spent = false → s.mode ≠ .closingHard → x.bound ≠ [] → s.releaseTest p = s) ∧
    (¬lit → x.id ≠ none → x.spent = false → s.mode ≠ .closingHard → x.bound = [] → s.releaseTest p = s.allocationPass p)

/-- R105: the seat sensor reports that are neither a seat event nor a port-clear event. -/
def Obligations.SeatReportsRecorded : Prop :=
  ∀ (s : State) (p : Nat) (q : Port) (occ : Bool), s.live = true → s.floor.port p = some q →
    let recorded : State :=
      { s with
        floor := { s.floor with ports := s.floor.ports.map fun y => if y.num == p then { y with occupied := occ } else y } }
    (q.occupied = occ → exec (.seatSensorReport p occ) s = .next s) ∧
    (q.occupied ≠ occ → (q.state = .presented ∨ q.state = .releaseWait ∨ q.state = .faulted) →
      exec (.seatSensorReport p occ) s = .next recorded) ∧
    (q.occupied ≠ occ → q.state = .vacant → occ = true → exec (.seatSensorReport p occ) s = .next recorded) ∧
    (q.occupied ≠ occ → q.state = .vacant → occ = false → exec (.seatSensorReport p occ) s = .next recorded.route) ∧
    (q.occupied ≠ occ → q.state = .inbound → occ = false → exec (.seatSensorReport p occ) s = .next recorded) ∧
    (q.occupied ≠ occ → q.state = .inbound → occ = true → exec (.seatSensorReport p occ) s = exec (.seat p) s) ∧
    (q.occupied ≠ occ → q.state = .releasing → occ = true → exec (.seatSensorReport p occ) s = .next recorded) ∧
    (q.occupied ≠ occ → q.state = .releasing → occ = false → exec (.seatSensorReport p occ) s = exec (.portClear p) s)

/-- R106: the seat timeout; R107, R114: a clear key at a FAULTED port and a port clear, and a clear key elsewhere. -/
def Obligations.TimeoutClearKeyAndPortClear : Prop :=
  (∀ (s : State) (p : Nat) (q : Port), s.live = true → s.floor.port p = some q →
      (q.state ≠ .inbound → exec (.seatTimeout p) s = .next s) ∧
      (∀ x, q.state = .inbound → q.tote = some x →
        let back := x.bound.filter (s.boundIn .reserved)
        exec (.seatTimeout p) s = .next (State.passesIf
          { State.recordFault
              { s with
                floor :=
                  { s.floor with
                    ports := s.floor.ports.map fun y =>
                      if y.num == p then
                        { y with state := .faulted, seatTimer := none
                                 tote := y.tote.map fun z => { z with bound := z.bound.filter fun b => !back.contains b } }
                      else y } }
              .seatTimeout p (x.id.getD 0) [] with
            lines := returnLines back s.lines }
          (!back.isEmpty)))) ∧
  (∀ (s : State) (p : Nat) (q : Port), s.live = true → s.floor.port p = some q →
      (q.state ≠ .faulted → exec (.clearKey p) s = .next s) ∧
      (∀ x, q.state = .faulted → q.tote = some x →
        exec (.clearKey p) s = .next (State.route (State.completionTest
          { s with
            journal := s.journal.write s.now
              (.released x.id (some .manual) (x.exposure.getD 0) ((x.comps.map ToteComp.qty ++ [0, 0, 0, 0]).take 4))
            floor :=
              { s.floor with
                ports := s.floor.ports.map fun y =>
                  if y.num == p then { y with state := .vacant, tote := none, seatTimer := none } else y } }))) ∧
      (∀ x, q.state = .releasing → q.occupied = true → q.tote = some x →
        exec (.portClear p) s = .next (State.route (State.completionTest
          { s with
            journal := s.journal.write s.now
              (.released x.id x.cause (x.exposure.getD 0) ((x.comps.map ToteComp.qty ++ [0, 0, 0, 0]).take 4))
            floor :=
              { s.floor with
                ports := s.floor.ports.map fun y =>
                  if y.num == p then { y with state := .vacant, tote := none, seatTimer := none, occupied := false } else y
                releaseLane := s.floor.releaseLane ++ [some x] } }))))

/-- R98, R115, R116: the merge event, where no port waits for room and no close is pending, and in every case: then room is tested, and
with the release lane empty the completion of a close. Log 17: the fault comes before the OFFER. -/
def Obligations.MergeSendsReleaseOffer : Prop :=
  ∀ s : State, s.live = true →
    (s.floor.releaseLane = [] → exec .merge s = .next s) ∧
    (∀ head rest, s.floor.releaseLane = head :: rest → s.floor.releaseWait = [] → s.mode.closing = false →
      (head = none ∨ (∃ x, head = some x ∧ x.id = none) →
        exec .merge s = .next { s with floor := { s.floor with releaseLane := rest } }) ∧
      (∀ x t cls, head = some x → x.id = some t → x.cls = some cls →
        let noted := if s.tracker.homed then s else s.recordFault .phaseUnknownMerge s.mergeSlot t []
        let offered := noted.queueToAll
          (.offer t s.mergeSlot .release cls
            (x.comps.map fun y => { sku := y.sku, qty := BitVec.ofNat 8 (if y.emptied then 0 else y.qty) })
            (if cls = .ambient then 0 else x.exposure.getD 0 / 4))
        exec .merge s = .next { offered with floor := { s.floor with releaseLane := rest } })) ∧
    (∀ head rest, s.floor.releaseLane = head :: rest →
      let after (u : State) : State :=
        if u.grantRoom.floor.releaseLane = [] then u.grantRoom.completionTest else u.grantRoom
      (head = none ∨ (∃ x, head = some x ∧ x.id = none) →
        exec .merge s = .next (after { s with floor := { s.floor with releaseLane := rest } })) ∧
      (∀ x t cls, head = some x → x.id = some t → x.cls = some cls →
        let noted := if s.tracker.homed then s else s.recordFault .phaseUnknownMerge s.mergeSlot t []
        let offered := noted.queueToAll
          (.offer t s.mergeSlot .release cls
            (x.comps.map fun y => { sku := y.sku, qty := BitVec.ofNat 8 (if y.emptied then 0 else y.qty) })
            (if cls = .ambient then 0 else x.exposure.getD 0 / 4))
        exec .merge s = .next (after { offered with floor := { s.floor with releaseLane := rest } })))

/-! ### Put wall and panel -/

/-- R36, R38, R40: put sensor reports; R138, R34: a report of empty at the put of the lit task withdraws it, and ends a cancel-pending line.
Log 30: the emptied flag keeps its value at the swap. -/
def Obligations.PutSensorReports : Prop :=
  ∀ (s : State) (p : Nat) (q : Put) (occ : Bool), s.live = true → s.put p = some q →
    let changed (f : Put → Put) : State := { s with puts := s.puts.map fun y => if y.num == p then f y else y }
    (q.occupied = occ → exec (.putSensorReport p occ) s = .next s) ∧
    (q.occupied ≠ occ → q.state = .free →
      exec (.putSensorReport p occ) s = .next (changed fun y => { y with occupied := occ })) ∧
    (q.occupied = true → occ = false → q.state = .opened → s.panel.task.any (fun t => t.put == p) = false →
      exec (.putSensorReport p occ) s = .next (changed fun y => { y with occupied := false, state := .suspended })) ∧
    (∀ t l, q.occupied = true → occ = false → q.state = .opened → s.panel.task = some t → t.put = p → l ∈ s.lines →
      l.order = t.order → l.lineNo = t.lineNo → (∀ y ∈ s.lines, y.order = t.order → y.lineNo = t.lineNo → y = l) →
      let dark : State :=
        { changed (fun y => { y with occupied := false, state := .suspended }) with
          panel :=
            { task := none
              ports := s.panel.ports.map fun y => if y.num == t.port then { y with lit := false, display := none } else y
              puts := s.panel.puts.map fun y => if y.num == t.put then { y with light := .off } else y } }
      let back (f : Line → Line) : State :=
        { dark with lines := s.lines.map fun y => if y.order == t.order && y.lineNo == t.lineNo then f y else y }
      (l.cancelPending = false →
        exec (.putSensorReport p occ) s =
          .next (((back fun y => { y with state := .reserved }).releaseTest t.port).taskChoice)) ∧
      (l.cancelPending = true →
        exec (.putSensorReport p occ) s = .next (State.taskChoice (State.releaseTest (State.orderCheck
          { back (fun y => { y with state := .cancelled, binding := none, cancelPending := false }) with
            floor := s.floor.mapTotes fun z =>
              if z.isId t.tote then { z with bound := z.bound.filter fun b => !(b.order == t.order && b.lineNo == t.lineNo) }
              else z }
          t.order) t.port)))) ∧
    (q.occupied = false → occ = true → q.state = .suspended →
      exec (.putSensorReport p occ) s =
        .next (State.taskChoice (changed fun y => { y with occupied := true, state := .opened }))) ∧
    (q.occupied = true → occ = false → q.state = .complete →
      exec (.putSensorReport p occ) s = .next (changed fun y => { y with occupied := false, emptied := true })) ∧
    (q.occupied = false → occ = true → q.state = .complete → q.emptied = true →
      exec (.putSensorReport p occ) s = .next
        { changed (fun y => { y with occupied := true, state := .free, order := none }) with
          journal := s.journal.write s.now (.putSwapped p (q.order.getD 0)) })

/-- R125, R127, R128: what a task choice lights, that it lights nothing while starts are stopped, and which tote it chooses: of those within
the exposure warning the one with least exposure, the earliest in presentation order among equals, or else the earliest. R124: the lines
that are taskable. -/
def Obligations.TaskChoice : Prop :=
  (∀ s : State,
      ((s.panel.task ≠ none ∨ s.mode = .closingHard ∨ s.mode = .closed ∨ s.journal.bound = true ∨ s.image = none) →
        s.taskChoice = s) ∧
      (s.chosenTote = none → s.taskChoice = s) ∧
      (∀ p x tid b l, s.panel.task = none → (s.mode = .opened ∨ s.mode = .closingSoft) → s.journal.bound = false →
        s.image ≠ none → s.chosenTote = some (p, x) → x.id = some tid → x.bound.find? (s.taskable x) = some b →
        s.lineOf b = some l →
        s.taskChoice =
          { s with
            lines := s.lines.map fun y => if y.order == b.order && y.lineNo == b.lineNo then { y with state := .active } else y
            panel :=
              { task := some { tote := tid, port := p, order := b.order, lineNo := b.lineNo, put := l.put, comp := b.comp,
                               units := b.units, display := b.units }
                ports := s.panel.ports.map fun y => if y.num == p then { y with lit := true, display := some b.units } else y
                puts := s.panel.puts.map fun y => if y.num == l.put then { y with light := .lit } else y } })) ∧
  (∀ (s : State) (c : Nat × Tote), s.chosenTote = some c →
      c ∈ s.presentedTotes ∧ s.hasTaskable c.2 = true ∧
      (∀ y ∈ s.presentedTotes, s.hasTaskable y.2 = true → s.warned y.2 = true →
        s.warned c.2 = true ∧ c.2.exposure.getD 0 ≤ y.2.exposure.getD 0) ∧
      (s.warned c.2 = false → ∃ before after, s.presentedTotes = before ++ c :: after ∧
        ∀ y ∈ before, s.hasTaskable y.2 = false) ∧
      (s.warned c.2 = true → ∃ before after, s.presentedTotes = before ++ c :: after ∧
        ∀ y ∈ before, s.hasTaskable y.2 = true → s.warned y.2 = true → c.2.exposure.getD 0 < y.2.exposure.getD 0)) ∧
  (∀ (s : State) (x : Tote) (b : BoundLine),
      (s.taskable x b = true ↔
        (∃ l, s.lineOf b = some l ∧ l.state = .reserved ∧ ∃ q, s.put l.put = some q ∧ q.state = .opened) ∧
          (x.cls = none ∨ x.cls = some .ambient ∨ 0 < x.exposure.getD 0)) ∧
      (s.hasTaskable x = true ↔ ∃ b ∈ x.bound, s.taskable x b = true) ∧
      (s.warned x = true ↔
        (x.cls = some .chilled ∨ x.cls = some .frozen) ∧ 0 < x.exposure.getD 0 ∧ x.exposure.getD 0 ≤ s.cfg.eWarn))

/-- R129: the short key. -/
def Obligations.ShortKeyLowersDisplay : Prop :=
  ∀ s : State, s.live = true →
    (s.panel.task = none → exec .shortKey s = .next s) ∧
    (∀ t, s.panel.task = some t →
      exec .shortKey s = .next
        { s with
          panel :=
            { s.panel with
              task := some { t with display := t.display - 1 }
              ports := s.panel.ports.map fun y =>
                if y.num == t.port then { y with lit := true, display := some (t.display - 1) } else y } })

/-- R130, R131: a press at a put that is not lit by the task flashes it and changes nothing else; the flash ends at count 2. Log 6: its
end is a command. -/
def Obligations.WrongPutFlashes : Prop :=
  ∀ (s : State) (p : Nat), s.live = true →
    ((∀ t, s.panel.task = some t → t.put ≠ p) →
      exec (.confirmKey p) s = .next
        { s with
          panel :=
            { s.panel with
              puts := s.panel.puts.map fun y =>
                if y.num == p then
                  { y with light := match y.light with
                      | .lit => .lit
                      | .off => .flashing 0
                      | .flashing _ => .flashing 0 }
                else y } }) ∧
    exec (.putFlashEnd p) s = .next
      { s with
        panel :=
          { s.panel with
            puts := s.panel.puts.map fun y =>
              if y.num == p then
                { y with light := match y.light with
                    | .lit => .lit
                    | .off => .off
                    | .flashing n => if 2 ≤ n then .off else .flashing n }
              else y } }

/-- R132, R135, R136: a full pick that completes a line of an order with more to do, on a tote that keeps lines: it ends in the task
choice. Then every full pick: DONE, WAITING, or CANCELLED where the line was cancel-pending (R34), with the order-complete check, the
passes where the line waits again, the release test and the task choice. R39: the order-complete check. -/
def Obligations.FullPickApplied : Prop :=
  (∀ (s : State) (t : Task) (l : Line), s.live = true → s.panel.task = some t → t.display = t.units →
    (∀ y ∈ s.lines, y.order = t.order → y.lineNo = t.lineNo → y = l) → l ∈ s.lines → l.order = t.order → l.lineNo = t.lineNo →
    let state : LineState :=
      if l.cancelPending = true then .cancelled else if l.picked + t.display = l.requested then .done else .waiting
    let picked : State :=
      { s with
        panel :=
          { task := none
            ports := s.panel.ports.map fun y => if y.num == t.port then { y with lit := false, display := none } else y
            puts := s.panel.puts.map fun y => if y.num == t.put then { y with light := .off } else y }
        floor := s.floor.mapTotes fun z =>
          if z.isId t.tote then
            { z with
              comps := z.comps.modify (t.comp - 1) fun (k : ToteComp) => { k with qty := k.qty - t.display }
              bound := z.bound.filter fun b => !(b.order == t.order && b.lineNo == t.lineNo) }
          else z
        lines := s.lines.map fun y =>
          if y.order == t.order && y.lineNo == t.lineNo then
            { y with picked := y.picked + t.display, state := state, binding := none, cancelPending := false }
          else y
        journal := s.journal.write s.now (.pick t.order t.lineNo t.tote t.display t.comp t.put) }
    (∀ x, l.cancelPending = false → l.picked + t.display = l.requested →
      (∃ y ∈ s.lines, y.order = t.order ∧ y.lineNo ≠ t.lineNo ∧ y.state ≠ .done ∧ y.state ≠ .cancelled) →
      s.floor.presentedTote t.port = some x → x.id = some t.tote → x.spent = false → s.mode ≠ .closingHard →
      (∃ b ∈ x.bound, ¬(b.order = t.order ∧ b.lineNo = t.lineNo)) →
      exec (.confirmKey t.put) s = .next picked.taskChoice) ∧
    (state ≠ .waiting →
      exec (.confirmKey t.put) s = .next (((picked.orderCheck t.order).releaseTest t.port).taskChoice)) ∧
    (state = .waiting →
      exec (.confirmKey t.put) s =
        .next ((((picked.orderCheck t.order).allPasses).releaseTest t.port).taskChoice))) ∧
  (∀ (s : State) (o : OrderId),
      ((∃ l ∈ s.lines, l.order = o ∧ l.state ≠ .done ∧ l.state ≠ .cancelled) → s.orderCheck o = s) ∧
      ((∀ l ∈ s.lines, l.order ≠ o) → s.orderCheck o = s) ∧
      (∀ l ls, (s.lines.filter fun y => y.order == o) = l :: ls → (∀ y ∈ l :: ls, y.state = .done ∨ y.state = .cancelled) →
        s.orderCheck o =
          { s with
            lines := s.lines.filter fun y => y.order != o
            puts := s.puts.map fun q => if q.num == l.put then { q with state := .complete, emptied := !q.occupied } else q
            journal := s.journal.write s.now
              (.orderComplete o l.put ((l :: ls).filter fun y => y.state == .done).length ((l :: ls).filter (·.short)).length
                ((l :: ls).filter fun y => y.state == .cancelled).length) }))

/-- R133 to R135, R137: a short confirm: the line waits again, the compartment is emptied, the other RESERVED lines on it wait again,
and the SHORT entry is written. Then every short confirm: the line WAITING, or CANCELLED where it was cancel-pending (R34); the
order-complete check, the passes where a line waits again, the release test and the task choice. -/
def Obligations.ShortApplied : Prop :=
  ∀ (s : State) (t : Task) (x : Tote) (l : Line) (k : ToteComp), s.live = true → s.panel.task = some t →
    t.display < t.units → l ∈ s.lines → l.order = t.order → l.lineNo = t.lineNo →
    (∀ y ∈ s.lines, y.order = t.order → y.lineNo = t.lineNo → y = l) →
    s.floor.allTotes.find? (·.isId t.tote) = some x → x.comps[t.comp - 1]? = some k →
    let back := x.bound.filter fun b =>
      !(b.order == t.order && b.lineNo == t.lineNo) && b.comp == t.comp && s.boundIn .reserved b
    let state : LineState :=
      if l.cancelPending = true then .cancelled else if l.picked + t.display = l.requested then .done else .waiting
    let shorted : State :=
      { s with
        panel :=
          { task := none
            ports := s.panel.ports.map fun y => if y.num == t.port then { y with lit := false, display := none } else y
            puts := s.panel.puts.map fun y => if y.num == t.put then { y with light := .off } else y }
        floor := s.floor.mapTotes fun z =>
          if z.isId t.tote then
            { z with
              comps := z.comps.modify (t.comp - 1) fun (y : ToteComp) => { y with qty := 0, emptied := true }
              bound := z.bound.filter fun b => !(b.order == t.order && b.lineNo == t.lineNo) && !back.contains b }
          else z
        lines := returnLines back (s.lines.map fun y =>
          if y.order == t.order && y.lineNo == t.lineNo then
            { y with picked := y.picked + t.display, short := true, state := state, binding := none, cancelPending := false }
          else y)
        journal := s.journal.write s.now
          (.short t.order t.lineNo t.tote t.display (t.units - t.display) t.comp t.put (decide (t.units < k.qty))) }
    (l.cancelPending = false → l.picked + t.display ≠ l.requested →
      exec (.confirmKey t.put) s = .next (((shorted.allPasses).releaseTest t.port).taskChoice)) ∧
    (state = .waiting ∨ back ≠ [] →
      exec (.confirmKey t.put) s =
        .next ((((shorted.orderCheck t.order).allPasses).releaseTest t.port).taskChoice)) ∧
    (state ≠ .waiting → back = [] →
      exec (.confirmKey t.put) s = .next (((shorted.orderCheck t.order).releaseTest t.port).taskChoice))

/-! ### Clock and exposure -/

/-- R95, R131: a second tick, where it spends no held tote; R25: the bench minute rises by 1 at the tick that brings the bench clock to
a multiple of 60, and at no other. R96: a tick that spends one held tote takes its exposure-spent event; one that spends several writes
EXPOSURE_SPENT for each with the number of its RESERVED lines, before any release or pass, in the order of log 16. Log 3: the tick is a
command. -/
def Obligations.SecondTick : Prop :=
  (∀ s : State, s.live = true →
      let ticked : State :=
        { s with
          ms := (s.ms / 1000 + 1) * 1000
          floor := s.floor.mapTotes fun x =>
            if x.cls = some .chilled ∨ x.cls = some .frozen then { x with exposure := x.exposure.map (· - 1) } else x
          panel :=
            { s.panel with
              puts := s.panel.puts.map fun y =>
                { y with light := match y.light with
                    | .lit => .lit
                    | .off => .off
                    | .flashing n => if 2 ≤ n + 1 then .off else .flashing (n + 1) } } }
      let due := ticked.floor.heldTotes.filter fun x => x.id.isSome && x.spent && !x.spentTaken
      ((∀ x ∈ s.floor.heldTotes, x.countDown.spent = false ∨ x.spentTaken = true) → exec .secondTick s = .next ticked) ∧
      (∀ x t, due = [x] → x.id = some t → ticked.floor.heldTotes.find? (·.isId t) = some x →
        exec .secondTick s = exec (.exposureSpent t) ticked) ∧
      ((due.flatMap fun x => boundKeys x.bound).Nodup →
        ∃ t, exec .secondTick s = .next t ∧
          (due.map fun x => EntryBody.exposureSpent (x.id.getD 0) (x.bound.filter (ticked.boundIn .reserved)).length) <+:
            (t.journal.entries.drop s.journal.entries.length).map (·.body))) ∧
  (∀ s t : State, s.live = true → exec .secondTick s = .next t →
      t.now = s.now + 1 ∧ (t.now % 60 = 0 → t.minute = s.minute + 1) ∧ (t.now % 60 ≠ 0 → t.minute = s.minute))

/-- R95, R96: the exposure-spent event of a held tote, taken once. Logs 6 and 21: the event is a command, and the record is marked. -/
def Obligations.ExposureSpentReturnsLines : Prop :=
  ∀ (s : State) (t : ToteId), s.live = true →
    (s.floor.heldTotes.find? (·.isId t) = none → exec (.exposureSpent t) s = .next s) ∧
    (∀ x, s.floor.heldTotes.find? (·.isId t) = some x → (x.spent = false ∨ x.spentTaken = true) →
      exec (.exposureSpent t) s = .next s) ∧
    (∀ x, s.floor.heldTotes.find? (·.isId t) = some x → x.spent = true → x.spentTaken = false →
      let back := x.bound.filter (s.boundIn .reserved)
      let spent : State :=
        { s with
          floor := s.floor.mapTotes fun y =>
            if y.isId t then { y with bound := y.bound.filter (fun b => !back.contains b), spentTaken := true } else y
          lines := returnLines back s.lines
          journal := s.journal.write s.now (.exposureSpent t back.length) }
      (∀ p, s.floor.portOfTote t = some p →
        exec (.exposureSpent t) s = .next ((spent.releaseTest p).passesIf (!back.isEmpty))) ∧
      (s.floor.portOfTote t = none → exec (.exposureSpent t) s = .next (spent.passesIf (!back.isEmpty))))

/-! ### Orders -/

/-- R29: the tests of a GRANT in their order. -/
def Obligations.GrantRefusalOrder : Prop :=
  ∀ (s : State) (g : GrantFrame),
    let malformed := g.count ≠ g.lines.length ∨ g.dest.first ≠ g.dest.last ∨ g.order = 0 ∨
      ∃ l ∈ g.lines, l.lineNo = 0 ∨ l.sku = 0 ∨ l.cls = none
    let outOfRange := g.put = 0 ∨ s.cfg.puts < g.put
    let busy := (∀ q ∈ s.put g.put, ¬(q.state = .free ∨ q.state = .opened ∧ q.order = some g.order)) ∨
      ∃ l ∈ s.lines, l.order = g.order ∧ l.put ≠ g.put
    let notServed := ∃ l ∈ g.lines, ∃ c ∈ l.cls, s.cfg.served.has c = false
    let duplicate := ¬(g.lines.map (·.lineNo)).Nodup ∨
      ∃ x ∈ g.lines, ∃ l ∈ s.lines, l.order = g.order ∧ l.lineNo = x.lineNo
    let tooLong := 32 < (s.lines.filter fun l => l.order == g.order).length + g.lines.length
    let full := 96 < s.lines.length + g.lines.length
    (malformed → s.grantRefusal g = some .malformed) ∧
    (¬malformed → outOfRange → s.grantRefusal g = some .putRange) ∧
    (¬malformed → ¬outOfRange → busy → s.grantRefusal g = some .putBusy) ∧
    (¬malformed → ¬outOfRange → ¬busy → notServed → s.grantRefusal g = some .classNotServed) ∧
    (¬malformed → ¬outOfRange → ¬busy → ¬notServed → duplicate → s.grantRefusal g = some .duplicateLine) ∧
    (¬malformed → ¬outOfRange → ¬busy → ¬notServed → ¬duplicate → tooLong → s.grantRefusal g = some .orderTooLong) ∧
    (¬malformed → ¬outOfRange → ¬busy → ¬notServed → ¬duplicate → ¬tooLong → full → s.grantRefusal g = some .tableFull) ∧
    (¬malformed → ¬outOfRange → ¬busy → ¬notServed → ¬duplicate → ¬tooLong → ¬full → s.mode ≠ .opened →
      s.grantRefusal g = some .benchClosed) ∧
    (¬malformed → ¬outOfRange → ¬busy → ¬notServed → ¬duplicate → ¬tooLong → ¬full → s.mode = .opened →
      s.journal.bound = true → s.grantRefusal g = some .journalBound) ∧
    (¬malformed → ¬outOfRange → ¬busy → ¬notServed → ¬duplicate → ¬tooLong → ¬full → s.mode = .opened →
      s.journal.bound = false → s.grantRefusal g = none) ∧
    (s.live = true → g.dest.first ≤ s.cfg.address → s.cfg.address ≤ g.dest.last → ∀ r, s.grantRefusal g = some r →
      exec (.grant g) s = .next (s.clearReceived.reply g.dest.src (.grant g.order r)) ∧
      ∀ t, exec (.grant g) s = .next t → t.lines = s.lines ∧ t.puts = s.puts ∧ t.arrival = s.arrival)

/-- R28, R30, R31, R37: a GRANT not addressed to the bench, and one accepted. -/
def Obligations.GrantAccepted : Prop :=
  ∀ (s : State) (g : GrantFrame), s.live = true →
    ((s.cfg.address < g.dest.first ∨ g.dest.last < s.cfg.address) → exec (.grant g) s = .next s.clearReceived) ∧
    (g.dest.first ≤ s.cfg.address → s.cfg.address ≤ g.dest.last → s.grantRefusal g = none →
      exec (.grant g) s = .next (State.allPasses (State.reply
        { s with
          received := none
          lines := s.lines ++ g.lines.mapIdx fun i x =>
            { order := g.order, lineNo := x.lineNo, sku := x.sku, put := g.put
              requested := min (x.qtyField.toNat + 1) 255, picked := 0, short := false, cancelPending := false
              due := (s.minute : Int) + max (-63) (min 960 x.slack.toInt), cls := x.cls.getD .ambient
              arrival := s.arrival + i, state := .waiting, binding := none }
          arrival := s.arrival + g.lines.length
          puts := s.puts.map fun q =>
            if q.num == g.put then
              if q.state == .free then
                { q with state := if q.occupied then .opened else .suspended, order := some g.order }
              else q
            else q }
        g.dest.src (.grant g.order .accepted))))

/-- R33, R35, R39: a CANCEL not addressed to the bench, malformed or of no order held (log 31: order ID 0 is answered NOT_FOUND like any
order without records); of an order that waits whole; of an order whose only line is lit; and of any order held: its lines CANCELLED or
cancel-pending and off the lists of contest and tote records, the claims left with no line given back (R82), the release test of every
PRESENTED tote that lost lines (R109), the order-complete check and the REPLY. Log 17 gives the order among claims and among totes. -/
def Obligations.CancelEndsOrder : Prop :=
  ∀ (s : State) (d : Dest) (o : OrderId), s.live = true →
    ((s.cfg.address < d.first ∨ d.last < s.cfg.address) → exec (.cancel d o) s = .next s.clearReceived) ∧
    (d.first ≤ s.cfg.address → s.cfg.address ≤ d.last → d.first ≠ d.last →
      exec (.cancel d o) s = .next (s.clearReceived.reply d.src (.cancel o .malformed 0 false))) ∧
    (d.first = s.cfg.address → d.last = s.cfg.address →
      ((∀ l ∈ s.lines, l.order ≠ o) →
        exec (.cancel d o) s = .next (s.clearReceived.reply d.src (.cancel o .notFound 0 false))) ∧
      (∀ l ls, (s.lines.filter fun l => l.order == o) = l :: ls → (∀ y ∈ l :: ls, y.state = .waiting) →
        (∀ c ∈ s.contests, ∀ b ∈ c.bound, b.order ≠ o) → (∀ x ∈ s.floor.allTotes, ∀ b ∈ x.bound, b.order ≠ o) →
        exec (.cancel d o) s = .next (State.reply
          { s with
            received := none
            lines := s.lines.filter fun y => y.order != o
            puts := s.puts.map fun q => if q.num == l.put then { q with state := .complete, emptied := !q.occupied } else q
            journal := s.journal.write s.now
              (.orderComplete o l.put 0 ((l :: ls).filter (·.short)).length (l :: ls).length) }
          d.src (.cancel o .accepted (l :: ls).length false))) ∧
      (∀ l, (s.lines.filter fun l => l.order == o) = [l] → l.state = .active →
        (∀ c ∈ s.contests, ∀ b ∈ c.bound, b.order = o → b.lineNo = l.lineNo) →
        (∀ x ∈ s.floor.allTotes, ∀ b ∈ x.bound, b.order = o → b.lineNo = l.lineNo) →
        exec (.cancel d o) s = .next (State.reply
          { s with
            received := none
            lines := s.lines.map fun y => if y.order == o then { y with cancelPending := true } else y }
          d.src (.cancel o .accepted 0 true))) ∧
      ((∃ l ∈ s.lines, l.order = o) → (s.contests.map (·.tote)).Nodup →
        let ends (y : Line) := y.state = .waiting ∨ y.state = .provisional ∨ y.state = .reserved
        let off (b : BoundLine) : Bool := b.order == o && !s.boundIn .active b
        let marked : State :=
          { s with
            received := none
            lines := s.lines.map fun y =>
              if y.order = o ∧ ends y then { y with state := .cancelled, binding := none }
              else if y.order = o ∧ y.state = .active then { y with cancelPending := true }
              else y
            contests := s.contests.map fun c => { c with bound := c.bound.filter fun b => !off b }
            floor := s.floor.mapTotes fun x => { x with bound := x.bound.filter fun b => !off b } }
        let emptied := s.contests.filter fun c =>
          (c.state == .awaitingSlot || c.state == .lastChance) && !c.bound.isEmpty && c.bound.all off
        let freed := emptied.foldl (fun u c => u.endContest { c with bound := [] } .relinquished c.slot) marked
        let losers := (s.presentedTotes.filter fun x => x.2.bound.any off).map (·.1)
        let tested := losers.foldl State.releaseTest freed
        exec (.cancel d o) s = .next (State.reply (tested.orderCheck o) d.src
          (.cancel o .accepted (s.lines.filter fun y => y.order = o ∧ ends y).length
            (s.lines.any fun y => y.order == o && y.state == .active)))))

/-! ### Modes -/

/-- R148, R151, R160: OPEN; R149, R150, R157: CLOSE_SOFT and CLOSE_HARD in a mode that they do not change; R180: each of them where its
range excludes the bench. -/
def Obligations.OpenAndRepeatedClose : Prop :=
  (∀ (s : State) (d : Dest), s.live = true → (s.cfg.address < d.first ∨ d.last < s.cfg.address) →
      exec (.controlOpen d) s = .next { s with received := none } ∧
      exec (.closeSoft d) s = .next { s with received := none } ∧
      exec (.closeHard d) s = .next { s with received := none }) ∧
  (∀ (s : State) (d : Dest), s.live = true → d.first ≤ s.cfg.address → s.cfg.address ≤ d.last →
      (s.mode = .opened →
        exec (.controlOpen d) s = .next (s.clearReceived.reply d.src (.modeAction .opened .accepted .opened))) ∧
      (s.mode ≠ .opened →
        exec (.controlOpen d) s = .next (State.reply
          (State.taskChoice
            { s with
              received := none, mode := .opened, requester := none
              journal := s.journal.write s.now (.mode s.mode .opened) })
          d.src (.modeAction .opened .accepted .opened)))) ∧
  (∀ (s : State) (d : Dest), s.live = true → d.first ≤ s.cfg.address → s.cfg.address ≤ d.last →
      (s.mode = .closed →
        exec (.closeSoft d) s = .next ((s.clearReceived.reply d.src (.modeAction .closeSoft .accepted .closed)).queueTo d.src
          (.quiet .closed)) ∧
        exec (.closeHard d) s = .next ((s.clearReceived.reply d.src (.modeAction .closeHard .accepted .closed)).queueTo d.src
          (.quiet .closed))) ∧
      (s.mode = .closingSoft →
        exec (.closeSoft d) s = .next (State.reply { s with received := none, requester := some d.src } d.src
          (.modeAction .closeSoft .accepted .closingSoft))) ∧
      (s.mode = .closingHard →
        exec (.closeSoft d) s = .next (State.reply { s with received := none, requester := some d.src } d.src
          (.modeAction .closeSoft .accepted .closingHard)) ∧
        exec (.closeHard d) s = .next (State.reply { s with received := none, requester := some d.src } d.src
          (.modeAction .closeHard .accepted .closingHard))))

/-- R149 to R156: a close entered: its steps in order, and its REPLY with the mode after it and any completion (R151; log 15 places the
completion); the claims of a CLOSE_HARD given back in order of their slots' distance to the divert point, nearest first, each with its
CLAIM_END (R153; log 17 orders equal distances and the withdrawals). It stands with its requester, or is complete; either close withdraws
every record in BID_QUEUED or WON but one whose own frame is in carriage, and no frame of it that is not in carriage stays (R152, R155); a
CLOSE_HARD ends every standing claim and leaves no PRESENTED tote without a lit task (R118, R154); and the completion test itself. Log 15:
the entry steps end before completion. Log 33: a frame that was in carriage at an earlier close and has lost arbitration since is
withdrawn. -/
def Obligations.CloseEntered : Prop :=
  (∀ (s : State) (d : Dest), s.live = true → d.first ≤ s.cfg.address → s.cfg.address ≤ d.last →
      (s.contests.map (·.tote)).Nodup →
      let begun (m : Mode) : State :=
        { s with
          received := none, mode := m, requester := some d.src, closeEntry := true
          journal := s.journal.write s.now (.mode s.mode m) }
      let queued := s.contests.filter fun c =>
        (c.state == .bidQueued || c.state == .won) &&
          !s.queue.any fun e => e.inCarriage && !e.ownerEnded &&
            (e.frame.payload == .bid c.tote || e.frame.payload == .take c.tote true || e.frame.payload == .take c.tote false)
      let withdrawn (m : Mode) : State := queued.foldl (fun u c => u.endContest c .withdrawn c.slot) (begun m)
      let finished (a : ModeAction) (m : Mode) (u : State) : State :=
        State.completionTest
          { u.reply d.src (.modeAction a .accepted
              (if u.floor.heldTotes = [] ∧ u.contests = [] ∧ u.floor.releaseLane = [] then .closed else m)) with
            closeEntry := false }
      (s.mode = .opened →
        exec (.closeSoft d) s = .next (finished .closeSoft .closingSoft (withdrawn .closingSoft))) ∧
      ((s.mode = .opened ∨ s.mode = .closingSoft) → ∃ near : List Contest,
        near.Perm (s.contests.filter fun c => c.state == .awaitingSlot || c.state == .lastChance) ∧
        near.Pairwise (fun a b => s.distance a.slot < s.distance b.slot ∨
          s.distance a.slot = s.distance b.slot ∧ [a, b].Sublist s.contests) ∧
        let freed := near.foldl (fun u c => u.endContest c .relinquished c.slot) (withdrawn .closingHard)
        exec (.closeHard d) s = .next (finished .closeHard .closingHard
          (freed.floor.presentation.foldl State.releaseTest freed)) ∧
        (near.map fun c => EntryBody.claimEnd c.tote .relinquished c.key.score).Sublist
          ((freed.journal.entries.drop s.journal.entries.length).map (·.body)))) ∧
  (∀ (s : State) (d : Dest), s.live = true → d.first ≤ s.cfg.address → s.cfg.address ≤ d.last →
      let done (t : State) := t.mode = .closed ∧ t.requester = none ∧ t.floor.heldTotes = [] ∧ t.contests = [] ∧
        t.floor.releaseLane = []
      (s.mode = .opened → ∃ t, exec (.closeSoft d) s = .next t ∧ t.closeEntry = false ∧
        (t.mode = .closingSoft ∧ t.requester = some d.src ∨ done t)) ∧
      ((s.mode = .opened ∨ s.mode = .closingSoft) → ∃ t, exec (.closeHard d) s = .next t ∧ t.closeEntry = false ∧
        (t.mode = .closingHard ∧ t.requester = some d.src ∨ done t)) ∧
      (s.mode = .opened → s.contests = [] → s.floor.heldTotes ≠ [] →
        exec (.closeSoft d) s = .next (State.reply
          { s with
            received := none, mode := .closingSoft, requester := some d.src, closeEntry := false
            journal := s.journal.write s.now (.mode .opened .closingSoft) }
          d.src (.modeAction .closeSoft .accepted .closingSoft)))) ∧
  (∀ (s : State) (d : Dest), s.live = true → d.first ≤ s.cfg.address → s.cfg.address ≤ d.last →
      (s.mode = .opened ∨ s.mode = .closingSoft) → (s.contests.map (·.tote)).Nodup →
      ∃ t, exec (.closeHard d) s = .next t ∧
        (∀ c ∈ t.contests, c ∈ s.contests ∧ c.state ≠ .awaitingSlot ∧ c.state ≠ .lastChance) ∧
        (∀ c ∈ s.contests, c.state = .diverting ∨ c.state = .bidSent → c ∈ t.contests) ∧
        (∀ y ∈ t.presentedTotes, ∃ b ∈ y.2.bound, t.boundIn .active b = true)) ∧
  (∀ (s t : State) (d : Dest) (i : Instr), s.live = true → d.first ≤ s.cfg.address → s.cfg.address ≤ d.last →
      (s.contests.map (·.tote)).Nodup →
      (i = .closeSoft d ∧ s.mode = .opened ∨ i = .closeHard d ∧ (s.mode = .opened ∨ s.mode = .closingSoft)) →
      exec i s = .next t →
      let own (x : ToteId) (e : TxEntry) :=
        e.frame.payload = .bid x ∨ e.frame.payload = .take x true ∨ e.frame.payload = .take x false
      (∀ c ∈ s.contests, c.state = .bidQueued ∨ c.state = .won →
        ((∃ e ∈ s.queue, e.inCarriage = true ∧ e.ownerEnded = false ∧ own c.tote e) → c ∈ t.contests) ∧
        ((∀ e ∈ s.queue, e.inCarriage = true → e.ownerEnded = false → ¬own c.tote e) →
          t.contestOf c.tote = none ∧ ∀ e ∈ t.queue, e.inCarriage = false → ¬own c.tote e)) ∧
      (i = .closeSoft d → ∀ c ∈ s.contests, c.state ≠ .bidQueued → c.state ≠ .won → c ∈ t.contests)) ∧
  (∀ s : State,
      ((s.mode = .opened ∨ s.mode = .closed ∨ s.floor.heldTotes ≠ [] ∨ s.contests ≠ [] ∨ s.floor.releaseLane ≠ []) →
        s.completionTest = s) ∧
      (∀ r, (s.mode = .closingSoft ∨ s.mode = .closingHard) → s.closeEntry = false → s.floor.heldTotes = [] → s.contests = [] →
        s.floor.releaseLane = [] → s.requester = some r →
        s.completionTest =
          { State.queueTo { s with mode := .closed, journal := s.journal.write s.now (.mode s.mode .closed) } r (.quiet .closed) with
            requester := none }))

/-! ### Journal and faults -/

/-- R171: FETCH. -/
def Obligations.FetchAdvances : Prop :=
  ∀ (s : State) (d : Dest) (k : Byte), s.live = true →
    ((s.cfg.address < d.first ∨ d.last < s.cfg.address) → exec (.fetch d k) s = .next s.clearReceived) ∧
    (d.first ≤ s.cfg.address → s.cfg.address ≤ d.last → d.first ≠ d.last →
      exec (.fetch d k) s = .next (s.clearReceived.reply d.src (.fetch .malformed))) ∧
    (d.first = s.cfg.address → d.last = s.cfg.address →
      let left := s.journal.entries.drop k.toNat
      let j : Journal :=
        { s.journal with
          entries := left, oldest := s.journal.oldest + BitVec.ofNat 32 (min k.toNat s.journal.entries.length)
          bound := decide (2048 - (left.map Entry.size).sum < 192) }
      let advanced : State := { s with received := none, journal := j }
      let chosen := if s.journal.bound = true ∧ j.bound = false then advanced.taskChoice else advanced
      exec (.fetch d k) s = .next (chosen.queueTo d.src
        (.journal j.oldest (left.length - (fitting 10 left).length) (fitting 10 left).length j.bound
          ((fitting 10 left).flatMap Entry.words))))

/-- R170: MARK; R180: one whose range excludes the bench. -/
def Obligations.MarkWritten : Prop :=
  ∀ (s : State) (d : Dest) (count : Nat) (words : List Word), s.live = true →
    let size := (s.journal.entryAt s.now (.mark words)).size
    ((s.cfg.address < d.first ∨ d.last < s.cfg.address) →
      exec (.mark d count words) s = .next { s with received := none }) ∧
    (d.first ≤ s.cfg.address → s.cfg.address ≤ d.last →
      (count ≠ words.length →
        exec (.mark d count words) s = .next (s.clearReceived.reply d.src (.control 6 .malformed))) ∧
      (count = words.length → (s.journal.bound = true ∨ s.journal.free < size + 192) →
        exec (.mark d count words) s = .next (s.clearReceived.reply d.src (.control 6 .journalBound))) ∧
      (count = words.length → s.journal.bound = false → size + 192 ≤ s.journal.free →
        exec (.mark d count words) s = .next
          (State.reply { s with received := none, journal := s.journal.write s.now (.mark words) } d.src
            (.control 6 .accepted))))

/-- R173: recording a fault; R175: CLEAR_FAULTS; R180: one whose range excludes the bench. -/
def Obligations.FaultsRecordedAndCleared : Prop :=
  (∀ (s : State) (k : FaultKind) (place : Nat) (detail : Word) (bytes : List Byte),
      let t := s.recordFault k place detail bytes
      (∀ j : FaultKind, maskHas t.faults.sticky j = (maskHas s.faults.sticky j || decide (j = k))) ∧
      (s.faults.first = none → t.faults.first = some { kind := k, seconds := s.now, place := place, bytes := bytes }) ∧
      (∀ f, s.faults.first = some f → t.faults.first = some f) ∧
      t.journal = s.journal.write s.now (.fault k place detail)) ∧
  (∀ (s : State) (d : Dest) (mask : BitVec 16), s.live = true → d.first ≤ s.cfg.address → s.cfg.address ≤ d.last →
      ∃ f : FaultRecord, exec (.clearFaults d mask) s =
          .next (State.reply { s with received := none, faults := f } d.src (.control 5 .accepted)) ∧
        (∀ k : FaultKind, maskHas f.sticky k = (maskHas s.faults.sticky k && !maskHas mask k)) ∧
        (∀ x, s.faults.first = some x → (maskHas mask x.kind = true → f.first = none) ∧
          (maskHas mask x.kind = false → f.first = some x)) ∧
        (s.faults.first = none → f.first = none)) ∧
  (∀ (s : State) (d : Dest) (mask : BitVec 16), s.live = true → (s.cfg.address < d.first ∨ d.last < s.cfg.address) →
      exec (.clearFaults d mask) s = .next { s with received := none })

/-- R164 to R167: writing an entry. R164: the kinds, their codes and the note class; 09 section 9.3: the header word, the seconds word of the
extended format and the body words of each kind. -/
def Obligations.EntryWritten : Prop :=
  (∀ (j : Journal) (now : Nat) (b : EntryBody),
      let delta := match j.lastTime with
        | none => none
        | some t => if t ≤ now ∧ now - t ≤ 255 then some (now - t) else none
      let e : Entry := { time := now, delta := delta, body := b }
      let after : Journal :=
        { entries := j.entries ++ [e], oldest := j.oldest, lastTime := some now
          bound := decide (2048 - ((j.entries ++ [e]).map Entry.size).sum < 192) }
      (b.isNote = false → j.write now b = after) ∧
      (b.isNote = true → e.size + 192 ≤ 2048 - (j.entries.map Entry.size).sum → j.write now b = after) ∧
      (b.isNote = true → 2048 - (j.entries.map Entry.size).sum < e.size + 192 → j.write now b = j) ∧
      (b.isNote = true ↔ 16 ≤ b.kind) ∧
      e.words.length = e.size ∧
      e.words = (match delta with
        | none => [BitVec.ofNat 32 (b.kind * 2 ^ 27 + 2 ^ 26 + (b.size + 1) * 2 ^ 23), BitVec.ofNat 32 now]
        | some d => [BitVec.ofNat 32 (b.kind * 2 ^ 27 + b.size * 2 ^ 23 + d)]) ++ b.words ∧
      b.words.length = b.size) ∧
  (let w (n : Nat) : Word := BitVec.ofNat 32 n
    let bit (f : Bool) (n : Nat) : Nat := if f then 2 ^ n else 0
    let is (b : EntryBody) (kind : Nat) (words : List Word) : Prop := b.kind = kind ∧ b.words = words
    (∀ (o : OrderId) (n : Byte) (t : ToteId) (q d c p : Nat) (f : Bool),
      is (.pick o n t q c p) 1 [w (o.toNat * 2 ^ 8 + n.toNat), t, w (q * 2 ^ 24 + c * 2 ^ 13 + p * 2 ^ 9)] ∧
      is (.short o n t q d c p f) 2
        [w (o.toNat * 2 ^ 8 + n.toNat), t, w (q * 2 ^ 24 + d * 2 ^ 16 + c * 2 ^ 13 + p * 2 ^ 9 + bit f 8)]) ∧
    (∀ (t : ToteId) (pos e score : Nat) (f : Bool),
      is (.landed t pos e score f) 3 [t, w (pos * 2 ^ 29 + bit f 28 + e / 4 * 2 ^ 16 + score)]) ∧
    (∀ (t : Option ToteId) (c : ReleaseCause) (e q1 q2 q3 q4 : Nat),
      is (.released t (some c) e [q1, q2, q3, q4]) 4
        [t.getD 0,
         w (bit t.isNone 31 + ([ReleaseCause.noLines, .spent, .closeHard, .orphan, .manual].idxOf c + 1) * 2 ^ 24 + e / 4),
         w (q1 * 2 ^ 24 + q2 * 2 ^ 16 + q3 * 2 ^ 8 + q4)]) ∧
    (∀ (t : ToteId) (n : Nat), is (.exposureSpent t n) 5 [t, w n]) ∧
    (∀ (o : OrderId) (p done shorted cancelled : Nat),
      is (.orderComplete o p done shorted cancelled) 6
        [w (o.toNat * 2 ^ 8 + p), w (done * 2 ^ 24 + shorted * 2 ^ 16 + cancelled * 2 ^ 8)] ∧
      is (.putSwapped p o) 7 [w (p * 2 ^ 24 + o.toNat)]) ∧
    (∀ (t : ToteId) (score : Nat),
      is (.claimEnd t .yielded score) 8 [t, w (1 * 2 ^ 24 + score)] ∧
      is (.claimEnd t .lapsed score) 8 [t, w (2 * 2 ^ 24 + score)] ∧
      is (.claimEnd t .relinquished score) 8 [t, w (3 * 2 ^ 24 + score)]) ∧
    (∀ old new : Mode,
      is (.mode old new) 16
        [w ([Mode.closed, .opened, .closingSoft, .closingHard].idxOf old * 2 ^ 24 +
            [Mode.closed, .opened, .closingSoft, .closingHard].idxOf new * 2 ^ 16)]) ∧
    (∀ (k : FaultKind) (place : Nat) (detail : Word),
      is (.fault k place detail) 17
        [w (([FaultKind.frameCheck, .frameForm, .txDrop, .readFail, .duplicateRead, .phaseSlip, .phaseUnknownMerge, .divertMiss,
              .seatTimeout].idxOf k + 1) * 2 ^ 24 + bit (k == .divertMiss || k == .seatTimeout) 23 + place), detail]) ∧
    ∀ ws : List Word, is (.mark ws) 18 ws)

/-- R184: STATUS answers with the state as it stands and changes nothing else; 10 section 10.6: the bytes of that answer. -/
def Obligations.StatusAnswers : Prop :=
  (∀ (s : State) (d : Dest), s.live = true →
    ((s.cfg.address < d.first ∨ d.last < s.cfg.address) → exec (.status d) s = .next s.clearReceived) ∧
    (d.first ≤ s.cfg.address → s.cfg.address ≤ d.last →
      exec (.status d) s = .next (s.clearReceived.reply d.src (.status .accepted
        { homed := s.tracker.homed, mode := s.mode, phase := s.tracker.phase, pitch := s.pitch
          ports := s.floor.ports.map (·.state), laneCount := s.floor.lane.length, releaseCount := s.floor.releaseLane.length
          waiting := (s.lines.filter fun l => l.state == .waiting).length
          reserved := (s.lines.filter fun l => l.state == .reserved).length, contests := s.contests.length
          bound := s.journal.bound, wordsUsed := (s.journal.entries.map Entry.size).sum, first := s.faults.first
          sticky := s.faults.sticky })))) ∧
  (∀ d : StatusData,
      let byte (n : Nat) : Byte := BitVec.ofNat 8 n
      let be (k n : Nat) : List Byte := (List.range k).reverse.map fun i => byte (n / 256 ^ i)
      (Payload.reply (.status .accepted d)).bytes =
        [9, 4, 0, byte ((if d.homed then 128 else 0) +
          [Mode.closed, .opened, .closingSoft, .closingHard].idxOf d.mode)] ++ be 2 d.phase ++ be 2 d.pitch ++
          ((d.ports.map fun p =>
            byte ([PortState.vacant, .inbound, .presented, .releaseWait, .releasing, .faulted].idxOf p)) ++ [7, 7, 7, 7]).take 4 ++
          [byte (d.laneCount * 16 + d.releaseCount), byte d.waiting, byte d.reserved, byte d.contests] ++
          be 2 ((if d.bound then 32768 else 0) + d.wordsUsed) ++
          (match d.first with
            | none => List.replicate 15 0
            | some f => [byte ([FaultKind.frameCheck, .frameForm, .txDrop, .readFail, .duplicateRead, .phaseSlip,
                .phaseUnknownMerge, .divertMiss, .seatTimeout].idxOf f.kind + 1)] ++ be 4 f.seconds ++ be 2 f.place ++ (f.bytes ++ List.replicate 8 0).take 8) ++
          be 2 d.sticky.toNat)

/-! ### Loop bus -/

/-- R179, R180, R183: the bytes of a received frame act as the command they spell, or as the fault they make; a CONTROL that is malformed is
answered so. R179: which bytes fail the check (log 13 gives its bit order; log 34: bytes after the check are not read), and which of the
others fail the form. 10 section 10.6: the fields that the bytes of each other frame hold (log 14: an order ID or an action that the
payload is too short to hold is a free value). -/
def Obligations.FrameBytesActAsCommand : Prop :=
  (∀ (l : Nat) (bs : List Byte),
      let at' (n : Nat) : Nat := (bs.getD n 0).toNat
      let num (n k : Nat) : Nat := (List.range k).foldl (fun a i => a * 256 + at' (n + i)) 0
      let byte (n : Nat) : Byte := BitVec.ofNat 8 (at' n)
      let len := at' 7 % 64
      let kind := at' 4 % 32
      let slot := num 12 2 % 1024
      let src := 63 - num 3 2 / 32 % 64
      let score := num 0 3 / 32 % 65536
      let dist := 1023 - num 2 2 / 8 % 1024
      let d : Dest := { src := src, first := at' 5 % 64, last := at' 6 % 64 }
      let tote : ToteId := BitVec.ofNat 32 (num 8 4)
      (receiveBytes l bs = .badCheck ↔
        bs.length < 8 ∨ bs.length < 8 + len + 2 ∨ (crc16 (bs.take (8 + len))).toNat ≠ num (8 + len) 2) ∧
      (receiveBytes l bs ≠ .badCheck →
        (receiveBytes l bs = .badForm ↔
          48 < len ∨
          (kind, at' 0 / 32) ∉
            [(1, 5), (2, 6), (3, 7), (4, 4), (5, 4), (6, 3), (7, 3), (8, 3), (9, 3), (10, 2), (11, 2), (12, 1)] ∨
          (kind = 2 ∨ kind = 4 ∨ kind = 5) ∧ len ≠ 4 ∨ kind = 3 ∧ len ≠ 5 ∨ kind = 7 ∧ len ≠ 3 ∨
          (kind = 8 ∨ kind = 11) ∧ len ≠ 1 ∨
          kind = 1 ∧ (len ≠ 9 + 4 * 2 ^ (at' 14 % 4) ∨ at' 14 % 4 = 3 ∨ at' 14 / 64 = 0 ∨ at' 14 / 16 % 4 = 0 ∨ l ≤ slot))) ∧
      (receiveBytes l bs ≠ .badCheck → receiveBytes l bs ≠ .badForm →
        (kind = 1 → receiveBytes l bs = .offer
          { src := src, tote := tote, slot := slot
            cause := [OfferCause.infeed, .release, .relinquish].getD (at' 14 / 64 - 1) .infeed
            cls := [TempClass.ambient, .chilled, .frozen].getD (at' 14 / 16 % 4 - 1) .ambient
            comps := (List.range (2 ^ (at' 14 % 4))).map fun i =>
              { sku := BitVec.ofNat 24 (num (17 + 4 * i) 3), qty := byte (20 + 4 * i) }
            exposureField := num 15 2 % 4096 }) ∧
        (kind = 2 → receiveBytes l bs = .bid src score dist tote) ∧
        (kind = 3 → receiveBytes l bs = .take src score dist tote (decide (at' 12 % 2 = 1))) ∧
        (kind = 4 → receiveBytes l bs = .landed src tote) ∧
        (kind = 5 → receiveBytes l bs = .exit src tote) ∧
        (kind = 6 → 4 ≤ len → receiveBytes l bs = .grant
          { dest := d, order := BitVec.ofNat 24 (num 8 3), put := at' 11 / 16, count := at' 11 % 8 + 1
            lines := (List.range (if (len - 4) % 7 = 0 then (len - 4) / 7 else 0)).map fun i =>
              { lineNo := byte (12 + 7 * i), sku := BitVec.ofNat 24 (num (13 + 7 * i) 3), qtyField := byte (16 + 7 * i)
                cls := [none, some TempClass.ambient, some .chilled, some .frozen].getD (at' (17 + 7 * i) / 64) none
                slack := BitVec.ofNat 14 (num (17 + 7 * i) 2) } }) ∧
        (kind = 6 → len < 4 → ∃ g, receiveBytes l bs = .grant g ∧ g.dest = d ∧ g.lines = []) ∧
        (kind = 7 → receiveBytes l bs = .cancel d (BitVec.ofNat 24 (num 8 3))) ∧
        (kind = 8 → receiveBytes l bs = .fetch d (byte 8)) ∧
        (kind = 9 → len = 0 → ∃ a, receiveBytes l bs = .malformedControl d a) ∧
        (kind = 9 → 1 ≤ len → receiveBytes l bs =
          if at' 8 = 1 ∧ len = 1 then .modeAction .opened d
          else if at' 8 = 2 ∧ len = 1 then .modeAction .closeSoft d
          else if at' 8 = 3 ∧ len = 1 then .modeAction .closeHard d
          else if at' 8 = 4 ∧ len = 1 then .status d
          else if at' 8 = 5 ∧ len = 3 then .clearFaults d (BitVec.ofNat 16 (num 9 2))
          else if at' 8 = 6 ∧ len = 2 + 4 * (at' 9 % 4 + 1) then
            .mark d (at' 9 % 4 + 1) ((List.range (at' 9 % 4 + 1)).map fun i => BitVec.ofNat 32 (num (10 + 4 * i) 4))
          else .malformedControl d (byte 8)) ∧
        (10 ≤ kind → receiveBytes l bs = .nothing))) ∧
  ∀ (s : State) (bs : List Byte), s.live = true →
    let r := receiveBytes s.cfg.loopLength bs
    let fault (k : FaultKind) := s.clearReceived.recordFault k 0 (BitVec.ofNat 32 (beNat ((bs ++ [0, 0, 0, 0]).take 4)))
      ((bs ++ [0, 0, 0, 0, 0, 0, 0, 0]).take 8)
    (r = .badCheck → exec (.frameReceived bs) s = .next (fault .frameCheck)) ∧
    (r = .badForm → exec (.frameReceived bs) s = .next (fault .frameForm)) ∧
    (r = .nothing → exec (.frameReceived bs) s = .next s.clearReceived) ∧
    (∀ o, r = .offer o → exec (.frameReceived bs) s = exec (.offer o) s) ∧
    (∀ a b c t, r = .bid a b c t → exec (.frameReceived bs) s = exec (.bid a b c t) s) ∧
    (∀ a b c t l, r = .take a b c t l → exec (.frameReceived bs) s = exec (.take a b c t l) s) ∧
    (∀ a t, r = .landed a t → exec (.frameReceived bs) s = exec (.landed a t) s) ∧
    (∀ a t, r = .exit a t → exec (.frameReceived bs) s = exec (.exit a t) s) ∧
    (∀ g, r = .grant g → exec (.frameReceived bs) s = exec (.grant g) s) ∧
    (∀ d o, r = .cancel d o → exec (.frameReceived bs) s = exec (.cancel d o) s) ∧
    (∀ d k, r = .fetch d k → exec (.frameReceived bs) s = exec (.fetch d k) s) ∧
    (∀ d, r = .modeAction .opened d → exec (.frameReceived bs) s = exec (.controlOpen d) s) ∧
    (∀ d, r = .modeAction .closeSoft d → exec (.frameReceived bs) s = exec (.closeSoft d) s) ∧
    (∀ d, r = .modeAction .closeHard d → exec (.frameReceived bs) s = exec (.closeHard d) s) ∧
    (∀ d, r = .status d → exec (.frameReceived bs) s = exec (.status d) s) ∧
    (∀ d m, r = .clearFaults d m → exec (.frameReceived bs) s = exec (.clearFaults d m) s) ∧
    (∀ d n ws, r = .mark d n ws → exec (.frameReceived bs) s = exec (.mark d n ws) s) ∧
    (∀ d a, r = .malformedControl d a →
      (d.first ≤ s.cfg.address → s.cfg.address ≤ d.last →
        exec (.frameReceived bs) s = .next (s.clearReceived.reply d.src (.control a .malformed))) ∧
      ((s.cfg.address < d.first ∨ d.last < s.cfg.address) → exec (.frameReceived bs) s = .next s.clearReceived))

/-- R178, R179, log 13: the contest frames a bench sends are received as they were sent. 10 section 10.6: the header, the check and the
payload bytes of every frame a bench sends (those of STATUS stand in `StatusAnswers`); R178: the CRC, with the bit order of log 13. -/
def Obligations.SentFramesAreReceived : Prop :=
  (∀ (l src score dist : Nat) (t : ToteId) (late : Bool), 1 ≤ src → src ≤ 62 → score ≤ 65535 → dist ≤ 1023 →
      let sent (p : Payload) : List Byte :=
        Frame.bytes { score := score, dist := dist, src := src, first := 1, last := 62, payload := p }
      receiveBytes l (sent (.bid t)) = .bid src score dist t ∧
      receiveBytes l (sent (.take t late)) = .take src score dist t late ∧
      receiveBytes l (sent (.landed t)) = .landed src t) ∧
  (∀ (l : Nat) (o : OfferFrame), 1 ≤ o.src → o.src ≤ 62 → o.slot ≤ 1023 → o.exposureField ≤ 4095 →
      (o.comps.length = 1 ∨ o.comps.length = 2 ∨ o.comps.length = 4) → o.slot < l →
      receiveBytes l (Frame.bytes
        { score := 0, dist := 0, src := o.src, first := 1, last := 62
          payload := .offer o.tote o.slot o.cause o.cls o.comps o.exposureField }) = .offer o) ∧
  (let byte (n : Nat) : Byte := BitVec.ofNat 8 n
    let be (k n : Nat) : List Byte := (List.range k).reverse.map fun i => byte (n / 256 ^ i)
    (∀ f : Frame,
      let body := be 5 (f.payload.cls * 2 ^ 37 + f.score * 2 ^ 21 + (1023 - f.dist) * 2 ^ 11 + (63 - f.src) * 2 ^ 5 + f.payload.kind) ++
        [byte f.first, byte f.last, byte f.payload.bytes.length] ++ f.payload.bytes
      f.bytes = body ++ be 2 (crc16 body).toNat) ∧
    (∀ (t : ToteId) (slot field : Nat) (c : OfferCause) (k : TempClass) (comps : List Compartment),
      (comps.length = 1 ∨ comps.length = 2 ∨ comps.length = 4) →
      (Payload.offer t slot c k comps field).bytes =
        be 4 t.toNat ++ be 2 slot ++
          [byte (([OfferCause.infeed, .release, .relinquish].idxOf c + 1) * 64 +
            ([TempClass.ambient, .chilled, .frozen].idxOf k + 1) * 16 + [1, 2, 4].idxOf comps.length)] ++
          be 2 field ++ comps.flatMap fun x => be 3 x.sku.toNat ++ [x.qty]) ∧
    (∀ (t : ToteId) (late : Bool),
      (Payload.bid t).bytes = be 4 t.toNat ∧ (Payload.landed t).bytes = be 4 t.toNat ∧
      (Payload.take t late).bytes = be 4 t.toNat ++ [if late then 1 else 0]) ∧
    (∀ m : Mode, (Payload.quiet m).bytes = [byte ([Mode.closed, .opened, .closingSoft, .closingHard].idxOf m)]) ∧
    (∀ (first : Word) (remaining count : Nat) (bound : Bool) (words : List Word),
      (Payload.journal first remaining count bound words).bytes =
        be 4 first.toNat ++ be 2 remaining ++ [byte count, if bound then 1 else 0] ++ words.flatMap fun w => be 4 w.toNat) ∧
    (∀ (order : OrderId) (o : ReplyOutcome) (count : Nat) (pending : Bool) (a : ModeAction) (m : Mode) (action : Byte),
      let code := byte ([ReplyOutcome.accepted, .malformed, .putRange, .putBusy, .classNotServed, .duplicateLine, .orderTooLong,
        .tableFull, .benchClosed, .journalBound, .notFound].idxOf o)
      (Payload.reply (.grant order o)).bytes = [6, 0, code] ++ be 3 order.toNat ∧
      (Payload.reply (.cancel order o count pending)).bytes =
        [7, 0, code] ++ be 3 order.toNat ++ [byte count, if pending then 1 else 0] ∧
      (Payload.reply (.fetch o)).bytes = [8, 0, code] ∧
      (Payload.reply (.modeAction a o m)).bytes =
        [9, byte ([ModeAction.opened, .closeSoft, .closeHard].idxOf a + 1), code,
          byte ([Mode.closed, .opened, .closingSoft, .closingHard].idxOf m)] ∧
      (Payload.reply (.control action o)).bytes = [9, action, code])) ∧
  (crc16 [] = 0xFFFF#16 ∧
    ∀ (bs : List Byte) (b : Byte), crc16 (bs ++ [b]) =
      (List.range 8).foldl (fun c _ => if c.msb then (c <<< 1) ^^^ 0x8005#16 else c <<< 1)
        (crc16 bs ^^^ (b.zeroExtend 16 <<< 8)))

/-- R178: comparing rank numbers is comparing class, then score, then smaller distance, then lower address; R181: queueing a frame,
with room and on a full queue; R174, R181: a dropped frame recorded with its class and kind. R178: the class and kind of each frame, and
how the frames of the bench are addressed: REPLY, QUIET and JOURNAL to the station answered, OFFER and LANDED to all. -/
def Obligations.TransmitQueueOverflow : Prop :=
  (∀ c1 c2 s1 s2 d1 d2 a1 a2 : Nat, s1 ≤ 65535 → s2 ≤ 65535 → d1 ≤ 1023 → d2 ≤ 1023 → a1 ≤ 63 → a2 ≤ 63 →
      (rankNumber c1 s1 d1 a1 < rankNumber c2 s2 d2 a2 ↔
        c1 < c2 ∨ c1 = c2 ∧ (s1 < s2 ∨ s1 = s2 ∧ (d2 < d1 ∨ d1 = d2 ∧ a2 < a1)))) ∧
  (∀ (s : State) (f : Frame),
      let e : TxEntry := { frame := f, inCarriage := false, ownerEnded := false }
      (s.queue.length < 12 → s.queue.Pairwise (fun a b => b.frame.rank ≤ a.frame.rank) →
        ∃ before after, s.queue = before ++ after ∧ s.queueFrame f = { s with queue := before ++ e :: after } ∧
          (∀ x ∈ before, f.rank ≤ x.frame.rank) ∧ ∀ x ∈ after, x.frame.rank < f.rank) ∧
      (12 ≤ s.queue.length → ∀ before d after, s.queue = before ++ d :: after → d.inCarriage = false →
        (∀ x ∈ after, x.inCarriage = true) →
        (f.rank ≤ d.frame.rank → s.queueFrame f = s.recordDrop f) ∧
        (d.frame.rank < f.rank →
          s.queueFrame f = State.recordDrop { s with queue := insertTx e (before ++ after) } d.frame)) ∧
      (12 ≤ s.queue.length → (∀ x ∈ s.queue, x.inCarriage = true) → s.queueFrame f = s.recordDrop f)) ∧
  (∀ (s : State) (f : Frame),
      let row : Nat × Nat := match f.payload with
        | .offer .. => (5, 1)
        | .bid _ => (6, 2)
        | .take .. => (7, 3)
        | .landed _ => (4, 4)
        | .reply _ => (2, 10)
        | .quiet _ => (2, 11)
        | .journal .. => (1, 12)
      f.rank = rankNumber row.1 f.score f.dist f.src ∧
      s.recordDrop f = s.recordFault .txDrop 0 (BitVec.ofNat 32 (row.1 * 2 ^ 24 + row.2 * 2 ^ 16)) []) ∧
  (∀ (s : State) (station : Nat) (p : Payload) (r : Reply),
      let own (first last : Nat) (q : Payload) : Frame :=
        { score := 0, dist := 0, src := s.cfg.address, first := first, last := last, payload := q }
      s.reply station r = s.queueFrame (own station station (.reply r)) ∧
      s.queueTo station p = s.queueFrame (own station station p) ∧ s.queueToAll p = s.queueFrame (own 1 62 p))

/-- R177: the start of a frame at an idle line and the loss of arbitration. Log 26: both are commands. -/
def Obligations.CarriageStartsAndStops : Prop :=
  ∀ s : State, s.live = true →
    (s.queue = [] → exec .transmitStart s = .next s) ∧
    ((∃ e ∈ s.queue, e.inCarriage = true) → exec .transmitStart s = .next s) ∧
    (∀ e rest, s.queue = e :: rest → (∀ x ∈ s.queue, x.inCarriage = false) →
      exec .transmitStart s = .next { s with queue := { e with inCarriage := true } :: rest }) ∧
    exec .arbitrationLost s = .next { s with queue := s.queue.map fun x => { x with inCarriage := false } }

/-! ### Start-up -/

/-- R186: when the configuration memory gives an image; R1, R186: its fields: clamped, derived, and the straps by their codes. -/
def Obligations.ImageFromStrapsAndMemory : Prop :=
  (∀ (st : Straps) (m : ConfigMemory),
      let d := max 1 (min 8 m.depth)
      let o := max 1 (min 16 m.mergeOffset)
      (buildImage st m).isSome = true ↔
        m.marker = 0x5A3C#16 ∧ 1 ≤ m.address ∧ m.address ≤ 62 ∧ 16 ≤ m.loopLength ∧ m.loopLength ≤ 1023 ∧
          m.reader < m.loopLength ∧ 2 ≤ m.ports ∧ m.ports ≤ 4 ∧ 1 ≤ m.lanePlaces ∧ m.lanePlaces ≤ 3 ∧ 4 ≤ m.puts ∧ m.puts ≤ 12 ∧
          (m.served.ambient = true ∨ m.served.chilled = true ∨ m.served.frozen = true) ∧ d + o < m.loopLength) ∧
  (∀ (st : Straps) (m : ConfigMemory) (i : Image), buildImage st m = some i →
      i.depth = max 1 (min 8 m.depth) ∧ i.mergeOffset = max 1 (min 16 m.mergeOffset) ∧ i.settle = max 2 (min 64 m.settle) ∧
      i.tLine = max 1 (min 60 m.tLine) ∧ i.tUnit = min 15 m.tUnit ∧ i.eWarn = min 600 m.eWarn ∧
      i.roundMs = max 4 (min 64 m.roundMs) ∧ i.pitch = max 20 (min 5000 m.pitch) ∧ i.seatTimeout = max 2 (min 30 m.seatTimeout) ∧
      i.address = m.address ∧ i.loopLength = m.loopLength ∧ i.reader = m.reader ∧ i.ports = m.ports ∧
      i.lanePlaces = m.lanePlaces ∧ i.puts = m.puts ∧ i.served = m.served ∧ i.places = m.ports + m.lanePlaces ∧
      i.divertPoint = (i.reader + i.depth) % i.loopLength ∧
      i.mergePoint = (i.reader + i.depth + i.mergeOffset) % i.loopLength ∧
      [1, 2, 3, 4, 5, 6, 8, 12][st.prescale.toNat]? = some i.prescale ∧
      [250, 500, 1000, 1000, 1000, 1000, 1000, 1000][st.bitRate.toNat]? = some i.bitRate ∧
      [1, 2, 3, 4, 5, 6, 10, 12][st.clockDivisor.toNat]? = some i.clockDivisor)

/-- R22, R41, R59, R86, R91, R122, R146, R162, R176, R185, R188, R189: a cold reset taken as the supply rises, whatever the supply was, and a
warm one as the RESET line is released, whatever the line was: what both leave, with every put and place as its sensor reads, and what
each kind leaves of the journal and the fault record; R169: the room a warm reset makes for its orphans, taking no entry more than that
needs; R176, R187: an UNCONFIGURED warm reset keeps the journal whole, its flag recomputed. Log 10: when the two commands take
a reset. Log 9: the sensor levels are their operands. Log 20: strokes are counted from the reset. Log 23: an UNCONFIGURED bench has no port,
put or panel record. -/
def Obligations.ResetsTaken : Prop :=
  (∀ (s : State) (x : Sensors),
      let orphan (cause : Option ReleaseCause) : Tote :=
        { id := none, cls := none, comps := [], exposure := none, landed := 0, bound := [], cause := cause, spentTaken := false }
      let seat (k : Nat) : Bool := x.seats.getD k false
      let seatsBefore (k : Nat) : Nat := ((List.range k).filter seat).length
      let inLane (i : Image) : Nat := ((x.lane.take i.lanePlaces).filter id).length
      let inRelease : Nat := ((x.releaseLane.take 2).filter id).length
      let port (i : Image) (k : Nat) : Port :=
        if seat k then
          { num := k + 1, state := if inRelease + seatsBefore k < 2 then .releasing else .releaseWait
            tote := some (orphan (some .orphan)), seatTimer := none, occupied := true, routerStrokes := 0
            releaseStrokes := if inRelease + seatsBefore k < 2 then 1 else 0 }
        else if k - seatsBefore k < inLane i then
          { num := k + 1, state := .inbound, tote := some (orphan none), seatTimer := some (1000 * i.seatTimeout)
            occupied := false, routerStrokes := 1, releaseStrokes := 0 }
        else
          { num := k + 1, state := .vacant, tote := none, seatTimer := none, occupied := false, routerStrokes := 0
            releaseStrokes := 0 }
      let blocks (t : State) : Prop :=
        t.pending = s.pending ∧ t.power = { supplyOk := true, resetAsserted := false, coldPending := false } ∧
        t.image = buildImage s.straps s.memory ∧ t.ready = t.image.isSome ∧ t.straps = s.straps ∧ t.memory = s.memory ∧
        t.ms = 0 ∧
        t.tracker = { prescale := 0, phase := 0, homed := false, history := [], prevAdvance := none, readFlag := false
                      approach := [], watch := [], divertStrokes := 0 } ∧
        t.lines = [] ∧ t.arrival = 0 ∧ t.lanes = { weight := 0, time := 0 } ∧ t.contests = [] ∧ t.roster = [] ∧
        t.mode = .closed ∧ t.requester = none ∧ t.closeEntry = false ∧ t.queue = [] ∧ t.received = none ∧
        (t.image = none →
          t.puts = [] ∧ t.panel = { task := none, ports := [], puts := [] } ∧
          t.floor = { lane := [], ports := [], presentation := [], releaseWait := [], releaseLane := [] }) ∧
        ∀ i, t.image = some i →
          t.puts = (List.range i.puts).map (fun k =>
            { num := k + 1, state := .free, order := none, occupied := x.puts.getD k false, emptied := false }) ∧
          t.panel =
            { task := none
              ports := (List.range i.ports).map fun k => { num := k + 1, lit := false, display := none }
              puts := (List.range i.puts).map fun k => { num := k + 1, light := .off } } ∧
          t.floor =
            { lane := List.replicate (inLane i - (i.ports - seatsBefore i.ports)) (orphan none)
              ports := (List.range i.ports).map (port i)
              presentation := []
              releaseWait := ((List.range i.ports).filter fun k => seat k && 2 ≤ inRelease + seatsBefore k).map (· + 1)
              releaseLane := List.replicate inRelease none }
      (s.power.resetAsserted = false →
        ∃ t, exec (.coldReset x) s = .next t ∧ blocks t ∧
          t.journal = { entries := [], oldest := 0, lastTime := none, bound := false } ∧ t.faults = { first := none, sticky := 0 }) ∧
      (s.power.supplyOk = true → s.power.coldPending = false →
        ∃ t, exec (.warmReset x) s = .next t ∧ blocks t ∧ t.faults = s.faults ∧ t.journal.lastTime = none ∧
          ∃ k, k ≤ s.journal.entries.length ∧ t.journal.entries = s.journal.entries.drop k ∧
            t.journal.oldest = s.journal.oldest + BitVec.ofNat 32 k)) ∧
  (∀ (s : State) (x : Sensors) (t : State), s.power.supplyOk = true → s.power.coldPending = false →
      (buildImage s.straps s.memory).isSome = true → exec (.warmReset x) s = .next t →
      5 * t.floor.heldCount ≤ t.journal.free ∧ t.journal.bound = decide (t.journal.free < 192) ∧
      (5 * t.floor.heldCount ≤ s.journal.free → t.journal.entries = s.journal.entries ∧ t.journal.oldest = s.journal.oldest) ∧
      ∀ k, k < s.journal.entries.length - t.journal.entries.length →
        2048 - ((s.journal.entries.drop k).map Entry.size).sum < 5 * t.floor.heldCount) ∧
  (∀ (s : State) (x : Sensors) (t : State), s.power.supplyOk = true → s.power.coldPending = false →
      buildImage s.straps s.memory = none → exec (.warmReset x) s = .next t →
      t.journal =
        { entries := s.journal.entries, oldest := s.journal.oldest, lastTime := none, bound := decide (s.journal.free < 192) })

/-! ### Invariants -/

/-- The invariants stand in the state after reset. Log 8: the bench of that state is the model's choice. -/
def Obligations.InvariantAtReset : Prop :=
  Inv State.reset ∧ LinesOk State.reset

/-- Every step keeps the invariant: R3, R4, R5, R14, R18, R20 (tracker: an approach queue in order, at most 2 diverts awaiting, none that
has seen two advances), R60, R61, R87 (claims), R63 (roster), R103, R106, R108, R112, R113 (floor: release-lane entries and RELEASING ports
at most 2, the presentation order exactly the PRESENTED ports and the release-wait order exactly the RELEASE_WAIT ports, each once), R123,
R131 (panel), R147 (mode), R167 (journal flag), R177, R181 (transmit queue), R186 (image). Log 15: the mark of a close inside its entry
steps is the model's own. -/
def Obligations.EveryStepKeepsInvariant : Prop :=
  ∀ s t : State, Inv s → step s = .next t → Inv t

/-- R60, R61: contest records and held totes together stay within places, and no tote ID stands twice. With that, on a floor in form, the
Line Table stays in form: at most 96 records, none of them twice, 32 of one order at one put (R23); a line bound exactly in PROVISIONAL,
RESERVED and ACTIVE, to the record whose list names it, and listed by every record it is bound to (R26); no line on the list of a tote on
its way out (R111); never more picked than requested (R27); and ACTIVE the task's line alone, its tote PRESENTED at the task's port
(R123). -/
def Obligations.ClaimsStayWithinPlaces : Prop :=
  ∀ s t : State, ClaimsOk s → step s = .next t → ClaimsOk t ∧ (FloorOk s.floor → LinesOk s → LinesOk t)
end

