-- ==== Sys2Proof/Laws/State.lean ====
section
/-! SUPPORT. What each named update of the state does to each field. -/

namespace Sys2Proof.Machine

@[simp] theorem State.updTracker_fields (s : State) (f : Tracker → Tracker) :
    (s.updTracker f).pending = s.pending ∧ (s.updTracker f).power = s.power ∧ (s.updTracker f).straps = s.straps ∧
    (s.updTracker f).memory = s.memory ∧ (s.updTracker f).image = s.image ∧ (s.updTracker f).ms = s.ms ∧
    (s.updTracker f).tracker = (f s.tracker) ∧ (s.updTracker f).lines = s.lines ∧
    (s.updTracker f).arrival = s.arrival ∧ (s.updTracker f).puts = s.puts ∧ (s.updTracker f).lanes = s.lanes ∧
    (s.updTracker f).contests = s.contests ∧ (s.updTracker f).roster = s.roster ∧ (s.updTracker f).floor = s.floor ∧
    (s.updTracker f).panel = s.panel ∧ (s.updTracker f).mode = s.mode ∧ (s.updTracker f).requester = s.requester ∧
    (s.updTracker f).closeEntry = s.closeEntry ∧ (s.updTracker f).journal = s.journal ∧
    (s.updTracker f).faults = s.faults ∧ (s.updTracker f).queue = s.queue ∧ (s.updTracker f).received = s.received := by
  repeat' constructor

@[simp] theorem State.updLine_fields (s : State) (o : OrderId) (n : Byte) (f : Line → Line) :
    (s.updLine o n f).pending = s.pending ∧ (s.updLine o n f).power = s.power ∧ (s.updLine o n f).straps = s.straps ∧
    (s.updLine o n f).memory = s.memory ∧ (s.updLine o n f).image = s.image ∧ (s.updLine o n f).ms = s.ms ∧
    (s.updLine o n f).tracker = s.tracker ∧
    (s.updLine o n f).lines = (s.lines.map fun l => if l.hasKey o n then f l else l) ∧
    (s.updLine o n f).arrival = s.arrival ∧ (s.updLine o n f).puts = s.puts ∧ (s.updLine o n f).lanes = s.lanes ∧
    (s.updLine o n f).contests = s.contests ∧ (s.updLine o n f).roster = s.roster ∧
    (s.updLine o n f).floor = s.floor ∧ (s.updLine o n f).panel = s.panel ∧ (s.updLine o n f).mode = s.mode ∧
    (s.updLine o n f).requester = s.requester ∧ (s.updLine o n f).closeEntry = s.closeEntry ∧
    (s.updLine o n f).journal = s.journal ∧ (s.updLine o n f).faults = s.faults ∧ (s.updLine o n f).queue = s.queue ∧
    (s.updLine o n f).received = s.received := by
  repeat' constructor

@[simp] theorem State.updContest_fields (s : State) (t : ToteId) (f : Contest → Contest) :
    (s.updContest t f).pending = s.pending ∧ (s.updContest t f).power = s.power ∧
    (s.updContest t f).straps = s.straps ∧ (s.updContest t f).memory = s.memory ∧
    (s.updContest t f).image = s.image ∧ (s.updContest t f).ms = s.ms ∧ (s.updContest t f).tracker = s.tracker ∧
    (s.updContest t f).lines = s.lines ∧ (s.updContest t f).arrival = s.arrival ∧ (s.updContest t f).puts = s.puts ∧
    (s.updContest t f).lanes = s.lanes ∧
    (s.updContest t f).contests = (s.contests.map fun c => if c.tote == t then f c else c) ∧
    (s.updContest t f).roster = s.roster ∧ (s.updContest t f).floor = s.floor ∧ (s.updContest t f).panel = s.panel ∧
    (s.updContest t f).mode = s.mode ∧ (s.updContest t f).requester = s.requester ∧
    (s.updContest t f).closeEntry = s.closeEntry ∧ (s.updContest t f).journal = s.journal ∧
    (s.updContest t f).faults = s.faults ∧ (s.updContest t f).queue = s.queue ∧
    (s.updContest t f).received = s.received := by
  repeat' constructor

@[simp] theorem State.updRoster_fields (s : State) (t : ToteId) (f : RosterEntry → RosterEntry) :
    (s.updRoster t f).pending = s.pending ∧ (s.updRoster t f).power = s.power ∧ (s.updRoster t f).straps = s.straps ∧
    (s.updRoster t f).memory = s.memory ∧ (s.updRoster t f).image = s.image ∧ (s.updRoster t f).ms = s.ms ∧
    (s.updRoster t f).tracker = s.tracker ∧ (s.updRoster t f).lines = s.lines ∧
    (s.updRoster t f).arrival = s.arrival ∧ (s.updRoster t f).puts = s.puts ∧ (s.updRoster t f).lanes = s.lanes ∧
    (s.updRoster t f).contests = s.contests ∧
    (s.updRoster t f).roster = (s.roster.map fun r => if r.tote == t then f r else r) ∧
    (s.updRoster t f).floor = s.floor ∧ (s.updRoster t f).panel = s.panel ∧ (s.updRoster t f).mode = s.mode ∧
    (s.updRoster t f).requester = s.requester ∧ (s.updRoster t f).closeEntry = s.closeEntry ∧
    (s.updRoster t f).journal = s.journal ∧ (s.updRoster t f).faults = s.faults ∧ (s.updRoster t f).queue = s.queue ∧
    (s.updRoster t f).received = s.received := by
  repeat' constructor

@[simp] theorem State.updTote_fields (s : State) (t : ToteId) (f : Tote → Tote) :
    (s.updTote t f).pending = s.pending ∧ (s.updTote t f).power = s.power ∧ (s.updTote t f).straps = s.straps ∧
    (s.updTote t f).memory = s.memory ∧ (s.updTote t f).image = s.image ∧ (s.updTote t f).ms = s.ms ∧
    (s.updTote t f).tracker = s.tracker ∧ (s.updTote t f).lines = s.lines ∧ (s.updTote t f).arrival = s.arrival ∧
    (s.updTote t f).puts = s.puts ∧ (s.updTote t f).lanes = s.lanes ∧ (s.updTote t f).contests = s.contests ∧
    (s.updTote t f).roster = s.roster ∧
    (s.updTote t f).floor = (s.floor.mapTotes fun x => if x.isId t then f x else x) ∧
    (s.updTote t f).panel = s.panel ∧ (s.updTote t f).mode = s.mode ∧ (s.updTote t f).requester = s.requester ∧
    (s.updTote t f).closeEntry = s.closeEntry ∧ (s.updTote t f).journal = s.journal ∧
    (s.updTote t f).faults = s.faults ∧ (s.updTote t f).queue = s.queue ∧ (s.updTote t f).received = s.received := by
  repeat' constructor

@[simp] theorem State.updPort_fields (s : State) (p : Nat) (f : Port → Port) :
    (s.updPort p f).pending = s.pending ∧ (s.updPort p f).power = s.power ∧ (s.updPort p f).straps = s.straps ∧
    (s.updPort p f).memory = s.memory ∧ (s.updPort p f).image = s.image ∧ (s.updPort p f).ms = s.ms ∧
    (s.updPort p f).tracker = s.tracker ∧ (s.updPort p f).lines = s.lines ∧ (s.updPort p f).arrival = s.arrival ∧
    (s.updPort p f).puts = s.puts ∧ (s.updPort p f).lanes = s.lanes ∧ (s.updPort p f).contests = s.contests ∧
    (s.updPort p f).roster = s.roster ∧ (s.updPort p f).floor = (s.floor.updPort p f) ∧
    (s.updPort p f).panel = s.panel ∧ (s.updPort p f).mode = s.mode ∧ (s.updPort p f).requester = s.requester ∧
    (s.updPort p f).closeEntry = s.closeEntry ∧ (s.updPort p f).journal = s.journal ∧
    (s.updPort p f).faults = s.faults ∧ (s.updPort p f).queue = s.queue ∧ (s.updPort p f).received = s.received := by
  repeat' constructor

@[simp] theorem State.updPut_fields (s : State) (p : Nat) (f : Put → Put) :
    (s.updPut p f).pending = s.pending ∧ (s.updPut p f).power = s.power ∧ (s.updPut p f).straps = s.straps ∧
    (s.updPut p f).memory = s.memory ∧ (s.updPut p f).image = s.image ∧ (s.updPut p f).ms = s.ms ∧
    (s.updPut p f).tracker = s.tracker ∧ (s.updPut p f).lines = s.lines ∧ (s.updPut p f).arrival = s.arrival ∧
    (s.updPut p f).puts = (s.puts.map fun q => if q.num == p then f q else q) ∧ (s.updPut p f).lanes = s.lanes ∧
    (s.updPut p f).contests = s.contests ∧ (s.updPut p f).roster = s.roster ∧ (s.updPut p f).floor = s.floor ∧
    (s.updPut p f).panel = s.panel ∧ (s.updPut p f).mode = s.mode ∧ (s.updPut p f).requester = s.requester ∧
    (s.updPut p f).closeEntry = s.closeEntry ∧ (s.updPut p f).journal = s.journal ∧
    (s.updPut p f).faults = s.faults ∧ (s.updPut p f).queue = s.queue ∧ (s.updPut p f).received = s.received := by
  repeat' constructor

@[simp] theorem State.write_fields (s : State) (b : EntryBody) :
    (s.write b).pending = s.pending ∧ (s.write b).power = s.power ∧ (s.write b).straps = s.straps ∧
    (s.write b).memory = s.memory ∧ (s.write b).image = s.image ∧ (s.write b).ms = s.ms ∧
    (s.write b).tracker = s.tracker ∧ (s.write b).lines = s.lines ∧ (s.write b).arrival = s.arrival ∧
    (s.write b).puts = s.puts ∧ (s.write b).lanes = s.lanes ∧ (s.write b).contests = s.contests ∧
    (s.write b).roster = s.roster ∧ (s.write b).floor = s.floor ∧ (s.write b).panel = s.panel ∧
    (s.write b).mode = s.mode ∧ (s.write b).requester = s.requester ∧ (s.write b).closeEntry = s.closeEntry ∧
    (s.write b).journal = (s.journal.write s.now b) ∧ (s.write b).faults = s.faults ∧ (s.write b).queue = s.queue ∧
    (s.write b).received = s.received := by
  repeat' constructor

@[simp] theorem State.forget_fields (s : State) (t : ToteId) :
    (s.forget t).pending = s.pending ∧ (s.forget t).power = s.power ∧ (s.forget t).straps = s.straps ∧
    (s.forget t).memory = s.memory ∧ (s.forget t).image = s.image ∧ (s.forget t).ms = s.ms ∧
    (s.forget t).tracker = s.tracker ∧ (s.forget t).lines = s.lines ∧ (s.forget t).arrival = s.arrival ∧
    (s.forget t).puts = s.puts ∧ (s.forget t).lanes = s.lanes ∧ (s.forget t).contests = s.contests ∧
    (s.forget t).roster = (s.roster.filter fun r => r.tote != t) ∧ (s.forget t).floor = s.floor ∧
    (s.forget t).panel = s.panel ∧ (s.forget t).mode = s.mode ∧ (s.forget t).requester = s.requester ∧
    (s.forget t).closeEntry = s.closeEntry ∧ (s.forget t).journal = s.journal ∧ (s.forget t).faults = s.faults ∧
    (s.forget t).queue = s.queue ∧ (s.forget t).received = s.received := by
  repeat' constructor

@[simp] theorem State.endTask_fields (s : State) (t : Task) :
    (s.endTask t).pending = s.pending ∧ (s.endTask t).power = s.power ∧ (s.endTask t).straps = s.straps ∧
    (s.endTask t).memory = s.memory ∧ (s.endTask t).image = s.image ∧ (s.endTask t).ms = s.ms ∧
    (s.endTask t).tracker = s.tracker ∧ (s.endTask t).lines = s.lines ∧ (s.endTask t).arrival = s.arrival ∧
    (s.endTask t).puts = s.puts ∧ (s.endTask t).lanes = s.lanes ∧ (s.endTask t).contests = s.contests ∧
    (s.endTask t).roster = s.roster ∧ (s.endTask t).floor = s.floor ∧ (s.endTask t).panel = (s.panel.endTask t) ∧
    (s.endTask t).mode = s.mode ∧ (s.endTask t).requester = s.requester ∧ (s.endTask t).closeEntry = s.closeEntry ∧
    (s.endTask t).journal = s.journal ∧ (s.endTask t).faults = s.faults ∧ (s.endTask t).queue = s.queue ∧
    (s.endTask t).received = s.received := by
  repeat' constructor

@[simp] theorem State.flashPut_fields (s : State) (p : Nat) :
    (s.flashPut p).pending = s.pending ∧ (s.flashPut p).power = s.power ∧ (s.flashPut p).straps = s.straps ∧
    (s.flashPut p).memory = s.memory ∧ (s.flashPut p).image = s.image ∧ (s.flashPut p).ms = s.ms ∧
    (s.flashPut p).tracker = s.tracker ∧ (s.flashPut p).lines = s.lines ∧ (s.flashPut p).arrival = s.arrival ∧
    (s.flashPut p).puts = s.puts ∧ (s.flashPut p).lanes = s.lanes ∧ (s.flashPut p).contests = s.contests ∧
    (s.flashPut p).roster = s.roster ∧ (s.flashPut p).floor = s.floor ∧
    (s.flashPut p).panel = (s.panel.updPutLight p PutLight.flash) ∧ (s.flashPut p).mode = s.mode ∧
    (s.flashPut p).requester = s.requester ∧ (s.flashPut p).closeEntry = s.closeEntry ∧
    (s.flashPut p).journal = s.journal ∧ (s.flashPut p).faults = s.faults ∧ (s.flashPut p).queue = s.queue ∧
    (s.flashPut p).received = s.received := by
  repeat' constructor

@[simp] theorem State.clearReceived_fields (s : State) :
    (s.clearReceived).pending = s.pending ∧ (s.clearReceived).power = s.power ∧ (s.clearReceived).straps = s.straps ∧
    (s.clearReceived).memory = s.memory ∧ (s.clearReceived).image = s.image ∧ (s.clearReceived).ms = s.ms ∧
    (s.clearReceived).tracker = s.tracker ∧ (s.clearReceived).lines = s.lines ∧
    (s.clearReceived).arrival = s.arrival ∧ (s.clearReceived).puts = s.puts ∧ (s.clearReceived).lanes = s.lanes ∧
    (s.clearReceived).contests = s.contests ∧ (s.clearReceived).roster = s.roster ∧
    (s.clearReceived).floor = s.floor ∧ (s.clearReceived).panel = s.panel ∧ (s.clearReceived).mode = s.mode ∧
    (s.clearReceived).requester = s.requester ∧ (s.clearReceived).closeEntry = s.closeEntry ∧
    (s.clearReceived).journal = s.journal ∧ (s.clearReceived).faults = s.faults ∧ (s.clearReceived).queue = s.queue ∧
    (s.clearReceived).received = (none) := by
  repeat' constructor

@[simp] theorem State.nextSecond_fields (s : State) :
    (s.nextSecond).pending = s.pending ∧ (s.nextSecond).power = s.power ∧ (s.nextSecond).straps = s.straps ∧
    (s.nextSecond).memory = s.memory ∧ (s.nextSecond).image = s.image ∧
    (s.nextSecond).ms = ((s.ms / 1000 + 1) * 1000) ∧ (s.nextSecond).tracker = s.tracker ∧
    (s.nextSecond).lines = s.lines ∧ (s.nextSecond).arrival = s.arrival ∧ (s.nextSecond).puts = s.puts ∧
    (s.nextSecond).lanes = s.lanes ∧ (s.nextSecond).contests = s.contests ∧ (s.nextSecond).roster = s.roster ∧
    (s.nextSecond).floor = s.floor ∧ (s.nextSecond).panel = s.panel ∧ (s.nextSecond).mode = s.mode ∧
    (s.nextSecond).requester = s.requester ∧ (s.nextSecond).closeEntry = s.closeEntry ∧
    (s.nextSecond).journal = s.journal ∧ (s.nextSecond).faults = s.faults ∧ (s.nextSecond).queue = s.queue ∧
    (s.nextSecond).received = s.received := by
  repeat' constructor

@[simp] theorem State.stopCarriage_fields (s : State) :
    (s.stopCarriage).pending = s.pending ∧ (s.stopCarriage).power = s.power ∧ (s.stopCarriage).straps = s.straps ∧
    (s.stopCarriage).memory = s.memory ∧ (s.stopCarriage).image = s.image ∧ (s.stopCarriage).ms = s.ms ∧
    (s.stopCarriage).tracker = s.tracker ∧ (s.stopCarriage).lines = s.lines ∧ (s.stopCarriage).arrival = s.arrival ∧
    (s.stopCarriage).puts = s.puts ∧ (s.stopCarriage).lanes = s.lanes ∧ (s.stopCarriage).contests = s.contests ∧
    (s.stopCarriage).roster = s.roster ∧ (s.stopCarriage).floor = s.floor ∧ (s.stopCarriage).panel = s.panel ∧
    (s.stopCarriage).mode = s.mode ∧ (s.stopCarriage).requester = s.requester ∧
    (s.stopCarriage).closeEntry = s.closeEntry ∧ (s.stopCarriage).journal = s.journal ∧
    (s.stopCarriage).faults = s.faults ∧
    (s.stopCarriage).queue = (s.queue.map fun e => { e with inCarriage := false }) ∧
    (s.stopCarriage).received = s.received := by
  repeat' constructor

end Sys2Proof.Machine
end

