-- ==== Sys2Proof/Laws/Floor.lean ====
section
/-! SUPPORT. What the operations on the bench floor can do: no port number changes, no tote is added or repeated, and the held count does
not rise. -/

namespace Sys2Proof.Machine

/-- From `a` to `b` the ports keep their numbers; and where no number is repeated, every tote ID stands at most as often, and no more
records are held. -/
structure FloorStep (a b : Floor) : Prop where
  nums : b.portNums = a.portNums
  held : a.portNums.Nodup → b.heldCount ≤ a.heldCount
  ids : a.portNums.Nodup → ∀ t, b.ids.count t ≤ a.ids.count t

theorem FloorStep.refl (a : Floor) : FloorStep a a := ⟨rfl, fun _ => le_rfl, fun _ _ => le_rfl⟩

theorem FloorStep.nodup {a b : Floor} (h : FloorStep a b) (n : a.portNums.Nodup) : b.portNums.Nodup := h.nums ▸ n

theorem FloorStep.trans {a b c : Floor} (h : FloorStep a b) (k : FloorStep b c) : FloorStep a c :=
  ⟨k.nums.trans h.nums, fun n => (k.held (h.nodup n)).trans (h.held n), fun n t => (k.ids (h.nodup n) t).trans (h.ids n t)⟩

theorem List.count_filterMap_eq {α β : Type} [BEq β] [LawfulBEq β] (f : α → Option β) (t : β) (l : List α) :
    (l.filterMap f).count t = l.countP fun x => f x == some t := by
  induction l with
  | nil => rfl
  | cons x xs ih =>
      simp only [List.countP_cons, ← ih, List.filterMap_cons]
      cases h : f x with
      | none => simp
      | some b => simp [List.count_cons]; rfl

theorem Floor.heldCount_eq (fl : Floor) : fl.heldCount = fl.lane.length + fl.ports.countP (·.tote.isSome) := by
  have : ∀ l : List Port, (l.filterMap (·.tote)).length = l.countP (·.tote.isSome) := fun l => by
    induction l with
    | nil => rfl
    | cons x xs ih => simp only [List.countP_cons, ← ih, List.filterMap_cons]; cases x.tote <;> simp
  simp [Floor.heldCount, Floor.heldTotes, this]

/-- How often a tote ID stands, place by place. -/
theorem Floor.ids_count (fl : Floor) (t : ToteId) :
    fl.ids.count t = fl.lane.countP (fun x => x.id == some t) + fl.ports.countP (fun q => q.tote.bind (·.id) == some t)
      + fl.releaseLane.countP (fun x => x.bind (·.id) == some t) := by
  simp [Floor.ids, Floor.allTotes, Floor.heldTotes, List.filterMap_filterMap, List.count_filterMap_eq]
  omega

theorem Floor.stands_iff (fl : Floor) (t : ToteId) : fl.allTotes.any (·.isId t) = true ↔ t ∈ fl.ids := by
  simp [Floor.ids, Tote.isId]

/-- A change of the orders alone. -/
theorem FloorStep.of_same {a b : Floor} (l : b.lane = a.lane) (p : b.ports = a.ports) (r : b.releaseLane = a.releaseLane) :
    FloorStep a b := by
  refine ⟨by rw [Floor.portNums, p, Floor.portNums], fun _ => ?_, fun _ t => ?_⟩
  · rw [Floor.heldCount_eq, Floor.heldCount_eq, l, p]
  · rw [Floor.ids_count, Floor.ids_count, l, p, r]

/-- Records changed in place with their identities kept. -/
theorem FloorStep.mapTotes (a : Floor) (f : Tote → Tote) (h : ∀ x, (f x).id = x.id) : FloorStep a (a.mapTotes f) := by
  have hb : ∀ o : Option Tote, (o.map f).bind (·.id) = o.bind (·.id) := fun o => by cases o <;> simp [h]
  refine ⟨?_, fun _ => ?_, fun _ t => ?_⟩
  · simp [Floor.portNums, Floor.mapTotes, Function.comp_def]
  · simp [Floor.heldCount_eq, Floor.mapTotes, List.countP_map, Function.comp_def]
  · simp [Floor.ids_count, Floor.mapTotes, List.countP_map, Function.comp_def, h, hb]

theorem Floor.updPort_nums (a : Floor) (p : Nat) (f : Port → Port) (hn : ∀ q, (f q).num = q.num) :
    (a.updPort p f).portNums = a.portNums := by
  simp only [Floor.portNums, Floor.updPort, List.map_map]
  refine List.map_congr_left fun q _ => ?_
  simp only [Function.comp_apply]; split <;> simp [hn]

/-- One port changed, its number kept and its record kept in place with its identity, or dropped. -/
theorem FloorStep.updPort (a : Floor) (p : Nat) (f : Port → Port) (hn : ∀ q, (f q).num = q.num)
    (ht : ∀ q, (f q).tote = none ∨ (f q).tote.map (·.id) = q.tote.map (·.id)) : FloorStep a (a.updPort p f) := by
  have hs : ∀ q, (f q).tote.isSome = true → q.tote.isSome = true := fun q h => by
    rcases ht q with k | k
    · simp [k] at h
    · cases hq : q.tote <;> simp_all
  have hi : ∀ q t, ((f q).tote.bind (·.id) == some t) = true → (q.tote.bind (·.id) == some t) = true := fun q t h => by
    rcases ht q with k | k
    · simp [k] at h
    · cases hf : (f q).tote <;> cases hq : q.tote <;> simp_all
  refine ⟨Floor.updPort_nums a p f hn, fun _ => ?_, fun _ t => ?_⟩
  · rw [Floor.heldCount_eq, Floor.heldCount_eq]
    simp only [Floor.updPort, List.countP_map]
    refine Nat.add_le_add_left (List.countP_mono_left fun q _ => ?_) _
    simp only [Function.comp_apply]; split
    · exact hs q
    · exact id
  · rw [Floor.ids_count, Floor.ids_count]
    simp only [Floor.updPort, List.countP_map]
    refine Nat.add_le_add_right (Nat.add_le_add_left (List.countP_mono_left fun q _ => ?_) _) _
    simp only [Function.comp_apply]; split
    · exact hi q t
    · exact id

/-- The ports of a floor around one of them, when numbers do not repeat. -/
theorem Floor.split_port {fl : Floor} (n : fl.portNums.Nodup) {q : Port} (h : q ∈ fl.ports) :
    ∃ l r, fl.ports = l ++ q :: r ∧
      ∀ f : Port → Port, fl.ports.map (fun x => if (x.num == q.num) = true then f x else x) = l ++ f q :: r := by
  obtain ⟨l, r, e⟩ := List.append_of_mem h
  refine ⟨l, r, e, fun f => ?_⟩
  have n' : (l.map Port.num ++ q.num :: r.map Port.num).Nodup := by simpa [Floor.portNums, e] using n
  have hl : ∀ x ∈ l, x.num ≠ q.num := fun x hx hxq =>
    (List.disjoint_of_nodup_append n') (List.mem_map.2 ⟨x, hx, rfl⟩) (by simp [hxq])
  have hr : ∀ x ∈ r, x.num ≠ q.num := fun x hx hxq =>
    ((List.nodup_cons.1 n'.of_append_right).1) (List.mem_map.2 ⟨x, hx, hxq⟩)
  have keep : ∀ ys : List Port, (∀ x ∈ ys, x.num ≠ q.num) →
      ys.map (fun x => if (x.num == q.num) = true then f x else x) = ys := fun ys hy => by
    conv_rhs => rw [← List.map_id ys]
    exact List.map_congr_left fun x hx => by simp [hy x hx]
  rw [e, List.map_append, List.map_cons, keep l hl, keep r hr, if_pos (by simp)]

theorem Floor.port_mem {fl : Floor} {p : Nat} {q : Port} (h : fl.port p = some q) : q ∈ fl.ports ∧ q.num = p :=
  ⟨List.mem_of_find?_eq_some h, by simpa using List.find?_some h⟩

theorem Floor.routable_mem {fl : Floor} {q : Port} (h : fl.routable = some q) : q ∈ fl.ports := List.mem_of_find?_eq_some h

/-- Routing moves the head of the lane to a port (R102). -/
theorem FloorStep.routeHead (a : Floor) (d : Nat) : FloorStep a (a.routeHead d) := by
  unfold Floor.routeHead
  split
  · rename_i t rest p hl hp
    refine ⟨Floor.updPort_nums { a with lane := rest } _ _ fun _ => rfl, fun n => ?_, fun n i => ?_⟩ <;>
      obtain ⟨l, r, e, u⟩ := Floor.split_port n (Floor.routable_mem hp)
    · rw [Floor.heldCount_eq, Floor.heldCount_eq]
      simp only [Floor.updPort, u]
      simp only [e, hl, List.countP_append, List.countP_cons, List.length_cons, Option.isSome_some, if_true]; omega
    · rw [Floor.ids_count, Floor.ids_count]
      simp only [Floor.updPort, u]
      simp only [e, hl, List.countP_append, List.countP_cons, Option.bind_some]; omega
  · exact FloorStep.refl a

theorem FloorStep.routeUpTo (k d : Nat) (a : Floor) : FloorStep a (a.routeUpTo k d) := by
  induction k generalizing a with
  | zero => exact FloorStep.refl a
  | succ k ih => exact (FloorStep.routeHead a d).trans (ih _)

/-- The record of a port moves to the tail of the release lane (R114). -/
theorem FloorStep.toReleaseLane (a : Floor) {p : Nat} {q : Port} {t : Tote} (hq : a.port p = some q)
    (ht : q.tote = some t) (f : Port → Port) (hn : ∀ x, (f x).num = x.num) (hf : ∀ x, (f x).tote = none) :
    FloorStep a { a.updPort p f with releaseLane := a.releaseLane ++ [some t] } := by
  obtain ⟨hm, rfl⟩ := Floor.port_mem hq
  have base := FloorStep.updPort a q.num f hn fun x => Or.inl (hf x)
  refine ⟨base.nums, base.held, fun n i => ?_⟩
  obtain ⟨l, r, e, u⟩ := Floor.split_port n hm
  rw [Floor.ids_count, Floor.ids_count]
  simp only [Floor.updPort, u]
  simp only [e, List.countP_append, List.countP_cons, List.countP_nil, Option.bind_some, ht, hf, Option.bind_none]
  simp; omega

/-- The head leaves the release lane (R115). -/
theorem FloorStep.dropHead (a : Floor) {x : Option Tote} {rest : List (Option Tote)} (h : a.releaseLane = x :: rest) :
    FloorStep a { a with releaseLane := rest } := by
  refine ⟨rfl, fun _ => le_rfl, fun _ t => ?_⟩
  rw [Floor.ids_count, Floor.ids_count]
  simp only [h, List.countP_cons]; omega

/-! ### The floor in form -/

/-- Ports changed with number, state, timer and the presence of a record kept leave the floor in form, whatever the records are. -/
theorem FloorOk.of_ports {a b : Floor} (h : FloorOk a) (f : Port → Port) (p : b.ports = a.ports.map f)
    (n : ∀ q, (f q).num = q.num) (s : ∀ q, (f q).state = q.state) (r : ∀ q, (f q).tote = none ↔ q.tote = none)
    (d : ∀ q, (f q).seatTimer = none ↔ q.seatTimer = none) (l : b.releaseLane.length = a.releaseLane.length)
    (o : b.presentation = a.presentation) (w : b.releaseWait = a.releaseWait) : FloorOk b := by
  have listed : ∀ st, ∀ xs : List Nat, (∀ k ∈ xs, ∃ q ∈ a.ports, q.num = k ∧ q.state = st) →
      ∀ k ∈ xs, ∃ q ∈ b.ports, q.num = k ∧ q.state = st := fun st xs hx k hk => by
    obtain ⟨q, hq, hn, hs⟩ := hx k hk
    exact ⟨f q, p ▸ List.mem_map_of_mem hq, (n q).trans hn, (s q).trans hs⟩
  have all : ∀ st, ∀ xs : List Nat, (∀ q ∈ a.ports, q.state = st → q.num ∈ xs) → ∀ q ∈ b.ports, q.state = st → q.num ∈ xs :=
    fun st xs hx q hq hs => by
      rw [p] at hq
      obtain ⟨y, hy, rfl⟩ := List.mem_map.mp hq
      rw [n]
      exact hx y hy ((s y).symm.trans hs)
  refine ⟨fun q hq => ?_, fun q hq => ?_, ?_, ?_, ?_⟩
  · rw [p] at hq
    obtain ⟨y, hy, rfl⟩ := List.mem_map.mp hq
    rw [r, s]; exact h.held y hy
  · rw [p] at hq
    obtain ⟨y, hy, rfl⟩ := List.mem_map.mp hq
    rw [d, s]; exact h.timer y hy
  · rw [l, p, ← List.countP_eq_length_filter, List.countP_map, List.countP_congr (q := fun q => q.state == .releasing),
      List.countP_eq_length_filter]
    · exact h.room
    · intro q _; simp [s]
  · rw [o]; exact ⟨h.presentation.1, listed _ _ h.presentation.2.1, all _ _ h.presentation.2.2⟩
  · rw [w]; exact ⟨h.releaseWait.1, listed _ _ h.releaseWait.2.1, all _ _ h.releaseWait.2.2⟩

/-- Records changed in place leave the floor in form. -/
theorem FloorOk.mapTotes {a : Floor} (h : FloorOk a) (f : Tote → Tote) : FloorOk (a.mapTotes f) :=
  h.of_ports _ rfl (fun _ => rfl) (fun _ => rfl) (fun _ => Option.map_eq_none_iff) (fun _ => Iff.rfl) (List.length_map ..) rfl rfl

/-- So does the record of one port changed in place. -/
theorem FloorOk.updTote {a : Floor} (h : FloorOk a) (k : Nat) (f : Tote → Tote) :
    FloorOk (a.updPort k fun q => { q with tote := q.tote.map f }) :=
  h.of_ports _ rfl (fun q => by split <;> rfl) (fun q => by split <;> rfl) (fun q => by split <;> simp)
    (fun q => by split <;> rfl) rfl rfl rfl

/-- And an occupancy recorded (R105). -/
theorem FloorOk.recordSeat {a : Floor} (h : FloorOk a) (k : Nat) (occ : Bool) :
    FloorOk (a.updPort k fun q => { q with occupied := occ }) :=
  h.of_ports _ rfl (fun q => by split <;> rfl) (fun q => by split <;> rfl) (fun q => by split <;> rfl)
    (fun q => by split <;> rfl) rfl rfl rfl

end Sys2Proof.Machine
end

