-- ==== Sys2Proof/Laws/Keep.lean ====
section
/-! SUPPORT. What the shared operations can do to a state, said once: each is made of the few kinds of change that `Keeps` lists, so a property
that stands those changes stands every shared operation. -/

namespace Sys2Proof.Machine

/-- The changes that the shared operations make to the panel: a task is lit where none stands, or the lit one ends. -/
inductive PanelStep (a : Panel) : Panel → Prop where
  | light (t : Task) : a.task = none →
      PanelStep a { (a.setPort t.port true (some t.display)).setPut t.put .lit with task := some t }
  | done (t : Task) : a.task = some t → PanelStep a (a.endTask t)

/-- The property stands every kind of change that the shared operations on lines, floor, panel, journal and transmit queue are made
of. -/
structure KeepsFloor (P : State → Prop) : Prop where
  lines : ∀ {s} x, P s → P { s with lines := x }
  puts : ∀ {s} x, P s → P { s with puts := x }
  lanes : ∀ {s} x, P s → P { s with lanes := x }
  floor : ∀ {s} x, FloorStep s.floor x → P s → P { s with floor := x }
  panel : ∀ {s} x, PanelStep s.panel x → P s → P { s with panel := x }
  write : ∀ {s} b, P s → P (s.write b)
  faults : ∀ {s} f, P s → P { s with faults := s.faults.add f }
  enqueue : ∀ {s} f, P s → P { s with queue := (Machine.enqueue s.queue f).1 }
  closed : ∀ {s}, s.mode.closing = true → s.closeEntry = false → P s → P { s with mode := .closed, requester := none }

/-- The property stands these and the changes that the shared operations make to the contest table, the roster and the frames of a
record. -/
structure Keeps (P : State → Prop) : Prop extends KeepsFloor P where
  contests : ∀ {s} x, (x.map Contest.tote).Sublist (s.contests.map Contest.tote) → P s → P { s with contests := x }
  roster : ∀ {s} x, (x.map RosterEntry.tote).Sublist (s.roster.map RosterEntry.tote) → P s → P { s with roster := x }
  withdraw : ∀ {s} t, P s → P { s with queue := withdrawFrames t s.queue }

namespace KeepsFloor

variable {P : State → Prop} (h : KeepsFloor P) {s : State}
include h

omit h in
theorem foldl {α : Type} (f : State → α → State) (hf : ∀ {s} a, P s → P (f s a)) (l : List α) (hs : P s) : P (l.foldl f s) := by
  induction l generalizing s with
  | nil => exact hs
  | cons a l ih => exact ih (hf a hs)

theorem recordFault (k : FaultKind) (p : Nat) (d : Word) (bs : List Byte) (hs : P s) : P (s.recordFault k p d bs) :=
  h.write _ (h.faults _ hs)

theorem recordFrameFault (k : FaultKind) (bs : List Byte) (hs : P s) : P (s.recordFrameFault k bs) := h.recordFault _ _ _ _ hs

theorem queueFrame (f : Frame) (hs : P s) : P (s.queueFrame f) := by
  have e := h.enqueue f hs
  unfold State.queueFrame
  split
  · rename_i q hq; simpa only [hq] using e
  · rename_i q d hq
    simp only [hq] at e
    exact h.recordFault _ _ _ _ e

theorem queueToAll (p : Payload) (hs : P s) : P (s.queueToAll p) := h.queueFrame _ hs

theorem queueTo (n : Nat) (p : Payload) (hs : P s) : P (s.queueTo n p) := h.queueFrame _ hs

theorem reply (n : Nat) (r : Reply) (hs : P s) : P (s.reply n r) := h.queueFrame _ hs

theorem updLine (o : OrderId) (n : Byte) (f : Line → Line) (hs : P s) : P (s.updLine o n f) := h.lines _ hs

theorem updPut (p : Nat) (f : Put → Put) (hs : P s) : P (s.updPut p f) := h.puts _ hs

theorem updTote (t : ToteId) (f : Tote → Tote) (hf : ∀ x, (f x).id = x.id) (hs : P s) : P (s.updTote t f) :=
  h.floor _ (FloorStep.mapTotes _ _ fun x => by split <;> simp [hf]) hs

theorem updPort (p : Nat) (f : Port → Port) (hn : ∀ q, (f q).num = q.num)
    (ht : ∀ q, (f q).tote = none ∨ (f q).tote.map (·.id) = q.tote.map (·.id)) (hs : P s) : P (s.updPort p f) :=
  h.floor _ (FloorStep.updPort _ _ _ hn ht) hs

theorem vacate (p : Nat) (hs : P s) : P (s.updPort p Port.vacate) := h.updPort _ _ (fun _ => rfl) (fun _ => Or.inl rfl) hs

theorem route (hs : P s) : P s.route := h.floor _ (FloorStep.routeUpTo _ _ _) hs

theorem queueQuiet (hs : P s) : P s.queueQuiet := by
  unfold State.queueQuiet
  split
  · exact hs
  · exact h.queueTo _ _ hs

omit h in
/-- The order of the steps of a completion does not matter to the state it leaves. -/
theorem completeClose_eq (s : State) :
    s.completeClose = { (s.write (.mode s.mode .closed)).queueQuiet with mode := .closed, requester := none } := by
  unfold State.completeClose State.queueQuiet
  cases hr : s.requester with
  | none => simp [State.write, State.now, hr]
  | some r =>
      simp only [State.write, State.now, hr, State.queueTo, State.queueFrame, State.plainFrame, State.cfg]
      split <;> simp [State.recordDrop, State.recordFault, State.write, State.now]

omit h in
theorem quiet_mode (s : State) : s.queueQuiet.mode = s.mode ∧ s.queueQuiet.closeEntry = s.closeEntry := by
  unfold State.queueQuiet
  split
  · exact ⟨rfl, rfl⟩
  · unfold State.queueTo State.queueFrame
    split <;> exact ⟨rfl, rfl⟩

theorem completionTest (hs : P s) : P s.completionTest := by
  unfold State.completionTest
  split
  · rename_i hc
    simp only [Bool.and_eq_true, State.closeComplete, Bool.not_eq_true'] at hc
    rw [completeClose_eq]
    have q := quiet_mode (s.write (.mode s.mode .closed))
    exact h.closed (by rw [q.1]; exact hc.1.1.1.1) (q.2.trans hc.2) (h.queueQuiet (h.write _ hs))
  · exact hs

theorem taskChoice (hs : P s) : P s.taskChoice := by
  unfold State.taskChoice
  split
  · rename_i hp
    have hn : s.panel.task = none := by
      simp only [State.startsPermitted, Bool.and_eq_true, Option.isNone_iff_eq_none] at hp; exact hp.1.1.1
    split
    · exact hs
    · split
      · split
        · rename_i p t _ _ _ tid b _ _ _ l _
          exact h.panel _
            (PanelStep.light
              { tote := tid, port := p, order := b.order, lineNo := b.lineNo, put := l.put, comp := b.comp, units := b.units,
                display := b.units } hn)
            (h.updLine _ _ _ hs)
        · exact hs
      · exact hs
  · exact hs

theorem removeAtGrant (q : Port) (hs : P s) : P (s.removeAtGrant q) := by
  unfold State.removeAtGrant
  split
  · exact h.vacate _ hs
  · exact h.route (h.completionTest (h.vacate _ (h.write _ hs)))

theorem grantTo (p : Nat) (hs : P s) : P (s.grantTo p) := by
  unfold State.grantTo
  split
  · exact hs
  · split
    · exact h.updPort _ _ (fun _ => rfl) (fun _ => Or.inr rfl) hs
    · exact h.removeAtGrant _ hs

theorem grantHead (hs : P s) : P s.grantHead := by
  unfold State.grantHead
  split
  · exact hs
  · split
    · exact h.grantTo _ (h.floor _ (FloorStep.of_same rfl rfl rfl) hs)
    · exact hs

theorem grantRoom (hs : P s) : P s.grantRoom := by
  unfold State.grantRoom
  generalize s.floor.releaseWait.length = n
  induction n generalizing s with
  | zero => exact hs
  | succ n ih => exact ih (h.grantHead hs)

theorem toReleaseWait (p : Nat) (t : Tote) (c : ReleaseCause) (hs : P s) : P (s.toReleaseWait p t c) := by
  have h1 := h.lines (returnLines (t.bound.filter (s.boundIn .reserved)) s.lines) hs
  refine h.grantRoom (h.floor _ ?_ h1)
  refine (FloorStep.updPort s.floor p
    (fun q => { q with state := .releaseWait, tote := q.tote.map fun x => { x with cause := some c, bound := [] } })
    (fun _ => rfl) fun q => Or.inr ?_).trans (FloorStep.of_same rfl rfl rfl)
  cases q.tote <;> rfl

theorem bindPass (p : Nat) (t : Tote) (hs : P s) : P (s.bindPass p t) := by
  unfold State.bindPass
  split
  · exact h.lanes _ hs
  · rename_i tid _
    have h1 := h.lines (bindLines (s.benchForm t).listed .reserved (.tote tid) s.lines) (h.lanes (s.benchForm t).lanes hs)
    refine h.floor _ ?_ h1
    refine FloorStep.updPort s.floor p _ (fun _ => rfl) fun q => Or.inr ?_
    cases q.tote <;> rfl

theorem testAfterPass (p : Nat) (hs : P s) : P (s.testAfterPass p) := by
  unfold State.testAfterPass
  split
  · exact hs
  · split
    · exact hs
    · split
      · exact h.toReleaseWait _ _ _ hs
      · exact hs

theorem allocationPass (p : Nat) (hs : P s) : P (s.allocationPass p) := by
  unfold State.allocationPass
  split
  · exact hs
  · rename_i t _
    have := h.testAfterPass p (h.bindPass p t hs)
    dsimp only
    split
    · exact this
    · exact h.taskChoice this

theorem releaseTest (p : Nat) (hs : P s) : P (s.releaseTest p) := by
  unfold State.releaseTest
  split
  · exact hs
  · split
    · exact hs
    · split
      · exact h.toReleaseWait _ _ _ hs
      · split
        · exact h.allocationPass _ hs
        · exact hs

theorem allPasses (hs : P s) : P s.allPasses := KeepsFloor.foldl _ (fun p hs => h.allocationPass p hs) _ hs

theorem passesIf (b : Bool) (hs : P s) : P (s.passesIf b) := by
  unfold State.passesIf
  split
  · exact h.allPasses hs
  · exact hs

theorem orderCheck (o : OrderId) (hs : P s) : P (s.orderCheck o) := by
  unfold State.orderCheck
  split
  · exact hs
  · dsimp only
    split
    · exact h.lines _ (h.write _ (h.updPut _ _ hs))
    · exact hs

end KeepsFloor

/-! ### Contests -/

namespace Keeps

variable {P : State → Prop} (h : Keeps P) {s : State}
include h

theorem updContest (t : ToteId) (f : Contest → Contest) (hf : ∀ c, (f c).tote = c.tote) (hs : P s) : P (s.updContest t f) :=
  h.contests _ (by
    rw [List.map_map, List.map_congr_left (g := Contest.tote)]
    intro c _; simp only [Function.comp_apply]; split <;> simp [hf]) hs

theorem updRoster (t : ToteId) (f : RosterEntry → RosterEntry) (hf : ∀ r, (f r).tote = r.tote) (hs : P s) :
    P (s.updRoster t f) :=
  h.roster _ (by
    rw [List.map_map, List.map_congr_left (g := RosterEntry.tote)]
    intro c _; simp only [Function.comp_apply]; split <;> simp [hf]) hs

theorem dropContest (p : Contest → Bool) (hs : P s) : P { s with contests := s.contests.filter p } :=
  h.contests _ (List.filter_sublist.map _) hs

theorem forget (t : ToteId) (hs : P s) : P (s.forget t) := h.roster _ (List.filter_sublist.map _) hs

theorem reoffer (c : Contest) (n : Nat) (hs : P s) : P (s.reoffer c n) :=
  h.queueToAll _ (h.updRoster _ _ (fun _ => rfl) hs)

theorem endSteps (c : Contest) (o : ContestOutcome) (n : Nat) (hs : P s) : P (s.endSteps c o n) := by
  unfold State.endSteps
  refine h.passesIf _ (h.dropContest _ ?_)
  have h1 : P { s with queue := withdrawFrames c.tote s.queue, lines := returnLines c.bound s.lines } :=
    h.lines _ (h.withdraw _ hs)
  split <;> split
  all_goals first | exact h.reoffer _ _ (h.write _ h1) | exact h.write _ h1 | exact h.reoffer _ _ h1 | exact h1

theorem endContest (c : Contest) (o : ContestOutcome) (n : Nat) (hs : P s) : P (s.endContest c o n) :=
  h.completionTest (h.endSteps c o n hs)

theorem queueTake (c : Contest) (hs : P s) : P (s.queueTake c) := h.queueFrame _ hs

theorem holdBy (k : Key) (t : ToteId) (hs : P s) : P (s.holdBy k t) := h.updRoster _ _ (fun _ => rfl) hs

theorem takeBid (k : Key) (t : ToteId) (hs : P s) : P (s.takeBid k t) := by
  unfold State.takeBid
  have u : ∀ b, P (s.updContest t fun x => { x with bestOther := some b }) := fun b => h.updContest _ _ (fun _ => rfl) hs
  split
  · exact hs
  · split
    · exact hs
    · split
      · dsimp only
        split
        · exact h.endContest _ _ _ (u _)
        · exact u _
      · exact u _
      all_goals exact hs

theorem takeTake (k : Key) (t : ToteId) (hs : P s) : P (s.takeTake k t) := by
  unfold State.takeTake
  have h1 := h.holdBy k t hs
  dsimp only
  split
  · exact h1
  · split
    · exact h1
    · split
      all_goals first
        | exact h1
        | exact h.endContest _ _ _ h1
        | (split
           · exact h.endContest _ _ _ h1
           · exact h1)

theorem endGone (t : ToteId) (hs : P s) : P (s.endGone t) := by
  unfold State.endGone
  split
  · exact hs
  · split
    all_goals first | exact h.endContest _ _ _ hs | exact hs

theorem takeLanded (n : Nat) (t : ToteId) (hs : P s) : P (s.takeLanded n t) := by
  unfold State.takeLanded
  dsimp only
  split
  · exact h.forget _ hs
  · exact h.endGone _ (h.forget _ hs)

theorem takeExit (t : ToteId) (hs : P s) : P (s.takeExit t) := h.endGone _ (h.forget _ hs)

theorem closeRound (c : Contest) (hs : P s) : P (s.closeRound c) := by
  unfold State.closeRound
  split
  · split
    · exact h.endContest _ _ _ hs
    · split
      · exact h.queueTake _ (h.updContest _ _ (fun _ => rfl) hs)
      · exact h.endContest _ _ _ hs
  · exact h.endContest _ _ _ hs
  all_goals exact hs

theorem roundOver (t : ToteId) (hs : P s) : P (s.roundOver t) := h.updRoster _ _ (fun _ => rfl) hs

theorem expireRound (t : ToteId) (hs : P s) : P (s.expireRound t) := by
  unfold State.expireRound
  split
  · exact hs
  · split
    · exact h.closeRound _ (h.roundOver _ hs)
    · exact hs

theorem requeueTake (t : ToteId) (hs : P s) : P (s.requeueTake t) := by
  unfold State.requeueTake
  split
  · exact hs
  · split
    · split
      · exact h.queueTake _ hs
      · exact h.endContest _ _ _ hs
    · exact hs

theorem requeueTakes (hs : P s) : P s.requeueTakes := KeepsFloor.foldl _ (fun t hs => h.requeueTake t hs) _ hs

theorem ownBidCarried (t : ToteId) (hs : P s) : P (s.ownBidCarried t) := by
  unfold State.ownBidCarried
  split
  · exact hs
  · split
    · exact h.updContest _ _ (fun _ => rfl) hs
    · exact hs

theorem ownTakeCarried (t : ToteId) (hs : P s) : P (s.ownTakeCarried t) := by
  unfold State.ownTakeCarried
  split
  · exact hs
  · split
    · rename_i c _ _
      have h2 : P { s.updContest t Contest.asClaimed with
          lines := bindLines c.bound .reserved (.contest t) (s.updContest t Contest.asClaimed).lines } :=
        h.lines _ (h.updContest _ _ (fun _ => rfl) hs)
      dsimp only
      split
      · exact h.endContest _ _ _ h2
      · exact h2
    · exact hs

theorem lapseIfDue (t : ToteId) (hs : P s) : P (s.lapseIfDue t) := by
  unfold State.lapseIfDue
  split
  · exact hs
  · split
    · exact h.endContest _ _ _ hs
    · exact hs

omit h in
theorem passage_tote (n : Nat) (c : Contest) : (c.passage n).tote = c.tote := by
  unfold Contest.passage
  split
  · split <;> rfl
  · split <;> rfl
  all_goals rfl

theorem slotPassage (n : Nat) (hs : P s) : P (s.slotPassage n) := by
  unfold State.slotPassage
  refine KeepsFloor.foldl _ (fun t hs => h.lapseIfDue t hs) _ (h.contests _ ?_ hs)
  rw [List.map_map, List.map_congr_left (g := Contest.tote)]
  exact fun c _ => passage_tote n c

/-! ### Exposure spent -/

theorem spendRecord (t : ToteId) (x : Tote) (hs : P s) : P (s.spendRecord t x) :=
  h.write _ (h.lines (returnLines (s.spentLines x) s.lines)
    (h.updTote t (fun y => { y with bound := y.bound.filter (fun b => !(s.spentLines x).contains b), spentTaken := true })
      (fun _ => rfl) hs))

theorem spendRelease (t : ToteId) (hs : P s) : P (s.spendRelease t) := by
  unfold State.spendRelease
  split
  · exact h.releaseTest _ hs
  · exact hs

theorem spendTote (t : ToteId) (x : Tote) (hs : P s) : P (s.spendTote t x) :=
  h.passesIf _ (h.spendRelease _ (h.spendRecord _ _ hs))

theorem spendIfDue (t : ToteId) (hs : P s) : P (s.spendIfDue t) := by
  unfold State.spendIfDue
  split
  · exact hs
  · split
    · exact h.spendTote _ _ hs
    · exact hs

end Keeps

/-! ### A contest that ends leaves no record (R62 step 5) -/

/-- The properties of a state that look only at the tote IDs of the contest table. -/
theorem Keeps.noContest (t : ToteId) : Keeps fun s => ∀ c ∈ s.contests, c.tote ≠ t where
  lines _ h := h
  puts _ h := h
  lanes _ h := h
  contests {s} x hx h := fun c hc => by
    obtain ⟨d, hd, e⟩ := List.mem_map.1 (hx.subset (List.mem_map.2 ⟨c, hc, rfl⟩))
    exact e ▸ h d hd
  roster _ _ h := h
  floor _ _ h := h
  panel _ _ h := h
  write _ h := h
  faults _ h := h
  enqueue _ h := h
  withdraw _ h := h
  closed _ _ h := h

theorem State.contestOf_none {s : State} {t : ToteId} (h : ∀ c ∈ s.contests, c.tote ≠ t) : s.contestOf t = none :=
  List.find?_eq_none.2 fun c hc => by simpa using h c hc

theorem State.contestOf_some {s : State} {t : ToteId} {c : Contest} (h : s.contestOf t = some c) : c ∈ s.contests ∧ c.tote = t :=
  ⟨List.mem_of_find?_eq_some h, by simpa using List.find?_some h⟩

/-- The shared operations on the floor leave the contest table as it is. -/
theorem KeepsFloor.contestsAre (x : List Contest) : KeepsFloor fun s => s.contests = x where
  lines _ h := h
  puts _ h := h
  lanes _ h := h
  floor _ _ h := h
  panel _ _ h := h
  write _ h := h
  faults _ h := h
  enqueue _ h := h
  closed _ _ h := h

/-- An ending removes the records of the tote and changes no other (R62). -/
theorem State.endContest_contests (s : State) (c : Contest) (o : ContestOutcome) (n : Nat) :
    (s.endContest c o n).contests = s.contests.filter fun x => x.tote != c.tote := by
  refine (KeepsFloor.contestsAre _).completionTest ((KeepsFloor.contestsAre _).passesIf _ ?_)
  dsimp only
  congr 1
  split <;> split
  all_goals first
    | rfl
    | exact (KeepsFloor.contestsAre _).queueToAll _ rfl

/-- After an ending no record of the tote stands. -/
theorem State.endContest_gone (s : State) (c : Contest) (o : ContestOutcome) (n : Nat) :
    (s.endContest c o n).contestOf c.tote = none := by
  refine State.contestOf_none ((Keeps.noContest c.tote).completionTest ((Keeps.noContest c.tote).passesIf _ ?_))
  intro d hd
  simpa using (List.mem_filter.1 hd).2

end Sys2Proof.Machine
end

