-- ==== Sys2Proof/Laws/Commands.lean ====
section
/-! SUPPORT. What the commands can do to a state beyond the shared operations, said once: a property that stands the changes that
`KeepsAll` lists stands every command but the resets and what holds them, and a millisecond of the clock. -/

namespace Sys2Proof.Machine

/-- The changes to the panel that a key press or a second tick makes. -/
inductive PanelAct (a : Panel) : Panel → Prop where
  | lower (t : Task) : a.task = some t →
      PanelAct a { a.setPort t.port true (some (t.display - 1)) with task := some { t with display := t.display - 1 } }
  | flash (p : Nat) : a.task.any (fun t => t.put == p) = false → PanelAct a (a.updPutLight p PutLight.flash)
  | settle (p : Nat) : PanelAct a (a.updPutLight p PutLight.settle)
  | tick : PanelAct a a.tick

/-! ### The entry of a close, for the shared kinds of change -/

namespace Keeps

variable {P : State → Prop} (h : Keeps P) {s : State}
include h

theorem endClose (settled : ∀ {s}, P s → P { s with closeEntry := false }) (n : Nat) (a : ModeAction) (hs : P s) :
    P (s.endClose n a) :=
  h.completionTest (settled (h.reply _ _ hs))

theorem withdrawAllQueued (hs : P s) : P s.withdrawAllQueued := by
  refine KeepsFloor.foldl _ (fun t hs => ?_) _ hs
  unfold State.withdrawQueued
  split
  · exact hs
  · split
    · exact h.endContest _ _ _ hs
    · exact hs

theorem relinquishAll (hs : P s) : P s.relinquishAll := by
  refine KeepsFloor.foldl _ (fun t hs => ?_) _ hs
  unfold State.relinquish
  split
  · exact hs
  · split
    · exact h.endContest _ _ _ hs
    · exact hs

theorem releaseSweep (hs : P s) : P s.releaseSweep := KeepsFloor.foldl _ (fun p hs => h.releaseTest p hs) _ hs

/-- The entry of a soft close, for a property that stands its first and its last step. -/
theorem enterSoft (begun : ∀ {s} m n, m.closing = true → P s → P { s with mode := m, requester := some n, closeEntry := true })
    (settled : ∀ {s}, P s → P { s with closeEntry := false }) (n : Nat) (hs : P s) : P (s.enterSoft n) :=
  h.endClose settled _ _ (h.withdrawAllQueued (h.write _ (begun .closingSoft n rfl hs)))

/-- The entry of a hard close, for a property that stands its first and its last step. -/
theorem enterHard (begun : ∀ {s} m n, m.closing = true → P s → P { s with mode := m, requester := some n, closeEntry := true })
    (settled : ∀ {s}, P s → P { s with closeEntry := false }) (n : Nat) (hs : P s) : P (s.enterHard n) :=
  h.endClose settled _ _
    (h.releaseSweep (h.relinquishAll (h.withdrawAllQueued (h.write _ (begun .closingHard n rfl hs)))))

end Keeps

/-- The kinds of change that commands make beyond the shared operations. -/
inductive Change where
  | enter | fresh | landing | tracker | clock | received | arrival | act | start | stop | carry | fetched | cleared | mode

/-- The kinds of change that a command can make; those of the frames for a frame as bytes. The resets and what holds them are not
covered. -/
def changes : Instr → List Change
  | .encoderPulse | .advance | .homeMark | .divert | .divertMiss => [.tracker]
  | .readerReport _ => [.tracker, .enter]
  | .laneEntry => [.tracker, .landing]
  | .confirmKey _ | .shortKey | .putFlashEnd _ => [.act]
  | .secondTick => [.clock, .act]
  | .offer _ => [.received, .fresh, .enter]
  | .bid .. | .take .. | .landed .. | .exit .. | .cancel .. | .status _ | .mark .. => [.received]
  | .grant _ => [.received, .arrival]
  | .fetch .. => [.received, .fetched]
  | .controlOpen _ | .closeSoft _ | .closeHard _ => [.received, .mode]
  | .clearFaults .. => [.received, .cleared]
  | .frameReceived _ => [.received, .fresh, .enter, .arrival, .fetched, .mode, .cleared]
  | .transmitStart => [.start]
  | .arbitrationLost => [.stop]
  | .bidCarried | .takeCarried | .frameCarried => [.received, .carry]
  | .lapseWindowClose _ | .seat _ | .seatSensorReport .. | .seatTimeout _ | .clearKey _ | .portClear _ | .merge
  | .putSensorReport .. | .exposureSpent _ | .roundClose _ => []
  | .coldReset _ | .warmReset _ | .supplyFall | .resetAssertion => []

/-- The property stands every kind of change that the shared operations are made of and, of those that single commands make, the kinds
`A` names. -/
structure KeepsAll (A : Change → Prop) (P : State → Prop) : Prop extends Keeps P where
  enter : A .enter → ∀ {s} c, s.contestOf c.tote = none → (s.floor.portNums.Nodup → s.toteStands c.tote = false) →
    s.committed < s.cfg.places → P s → P (s.enter c)
  fresh : A .fresh → ∀ {s} e, P s → P { s with roster := refreshRoster s.roster e }
  landing : A .landing → ∀ {s} (c : Contest) (x : Tote), s.contestOf c.tote = some c → x.id = some c.tote → P s →
    P { s with contests := s.contests.filter (fun y => y.tote != c.tote), floor := { s.floor with lane := s.floor.lane ++ [x] } }
  tracker : A .tracker → ∀ {s} x, P s → P { s with tracker := x }
  clock : A .clock → ∀ {s} x, P s → P { s with ms := x }
  received : A .received → ∀ {s} x, P s → P { s with received := x }
  arrival : A .arrival → ∀ {s} x, P s → P { s with arrival := x }
  act : A .act → ∀ {s} x, PanelAct s.panel x → P s → P { s with panel := x }
  start : A .start → ∀ {s e rest}, s.carried = none → s.queue = e :: rest → P s →
    P { s with queue := { e with inCarriage := true } :: rest }
  stop : A .stop → ∀ {s}, P s → P s.stopCarriage
  carry : A .carry → ∀ {s}, P s → P { s with queue := withoutCarried s.queue }
  fetched : A .fetched → ∀ {s} k, P s → P { s with journal := s.journal.drop k }
  cleared : A .cleared → ∀ {s} m, P s → P { s with faults := s.faults.clear m }
  reopen : A .mode → ∀ {s}, P s → P { s with mode := .opened, requester := none }
  soft : A .mode → ∀ {s} n, s.mode = .opened → P s → P (s.enterSoft n)
  hard : A .mode → ∀ {s} n, s.mode = .opened ∨ s.mode = .closingSoft → P s → P (s.enterHard n)
  replace : A .mode → ∀ {s} n, s.mode.closing = true → P s → P { s with requester := some n }

namespace KeepsAll

variable {A : Change → Prop} {P : State → Prop} (h : KeepsAll A P) {s : State}
include h

/-! ### Slot Tracker -/

theorem updTracker (kt : A .tracker) (f : Tracker → Tracker) (hs : P s) : P (s.updTracker f) := h.tracker kt _ hs

theorem homeMark (kt : A .tracker) (hs : P s) : P s.homeMark := by
  have fix : ∀ {s}, P s → P s.fixPhase := fun hs => h.slotPassage _ (h.updTracker kt _ (h.updTracker kt _ hs))
  unfold State.homeMark
  split
  · split
    · exact hs
    · exact fix (h.recordFault _ _ _ _ hs)
  · exact fix hs

omit h in
/-- A score that is not 0 comes from an eligible bench (R46, R53). -/
theorem eligible_of_score {s : State} {q : BidQuery} (hn : ¬(s.bidForm q).score = 0) :
    s.eligible q.cls q.dist q.late = true := by
  unfold State.bidForm at hn
  split at hn
  · assumption
  · exact absurd rfl hn

omit h in
theorem committed_of_eligible {s : State} {c : TempClass} {d : Nat} {l : Bool} (he : s.eligible c d l = true) :
    s.committed < s.cfg.places := by
  simp only [State.eligible, Bool.and_eq_true, decide_eq_true_eq] at he
  exact he.1.2

theorem lateTake (ke : A .enter) (t : ToteId) (n : Nat) (hc : s.contestOf t = none)
    (ht : s.floor.portNums.Nodup → s.toteStands t = false) (hs : P s) : P (s.lateTake t n) := by
  unfold State.lateTake
  split
  · exact hs
  · rename_i r hr
    have hrt : r.tote = t := by simpa using List.find?_some hr
    split
    · dsimp only
      have h1 := h.lanes (s.bidForm (s.lateQuery r)).lanes hs
      split
      · exact h1
      · rename_i hz
        exact h.queueTake _ (h.enter ke (State.lateRecord s r n (s.bidForm (s.lateQuery r))) (by rw [← hrt] at hc; exact hc)
          (by rw [← hrt] at ht; exact ht) (committed_of_eligible (eligible_of_score hz)) h1)
    · exact hs

theorem handReport (ke : A .enter) (t : ToteId) (n : Nat) (hs : P s) : P (s.handReport t n) := by
  unfold State.handReport
  split
  · split
    · exact h.updContest _ _ (fun _ => rfl) hs
    · exact hs
  · rename_i hc
    split
    · exact hs
    · rename_i ht
      exact h.lateTake ke _ _ hc (fun _ => by simpa using ht) hs

theorem readerReport (kt : A .tracker) (ke : A .enter) (r : ReaderReport) (hs : P s) : P (s.readerReport r) := by
  unfold State.readerReport
  split
  · exact hs
  · have h1 := h.updTracker kt (fun x => { x with readFlag := true }) hs
    unfold State.firstReport
    split
    · exact h1
    · exact h.recordFault _ _ _ _ (h.updTracker kt _ h1)
    · split
      · exact h.recordFault _ _ _ _ (h.updTracker kt _ h1)
      · dsimp only
        split
        · exact h.handReport ke _ _ (h.updTracker kt _ h1)
        · exact h.updTracker kt _ h1

theorem divertHead (kt : A .tracker) (hs : P s) : P s.divertHead := by
  unfold State.divertHead
  split
  · exact hs
  · split
    · dsimp only
      split
      · exact h.updTracker kt _ hs
      · exact h.updTracker kt _ (h.updContest _ _ (fun _ => rfl) (h.updTracker kt _ hs))
    · exact hs

theorem missHead (kt : A .tracker) (hs : P s) : P s.missHead := by
  unfold State.missHead
  split
  · exact hs
  · split
    · have h1 := fun a b c d => h.recordFault a b c d (h.updTracker kt (fun x => { x with watch := ‹List WatchEntry› }) hs)
      unfold State.missTote
      split
      · exact h1 _ _ _ _
      · split
        · exact h.endContest _ _ _ (h1 _ _ _ _)
        · exact h1 _ _ _ _
    · exact hs

theorem missUpTo (kt : A .tracker) (n : Nat) (hs : P s) : P (s.missUpTo n) := by
  induction n generalizing s with
  | zero => exact hs
  | succ n ih => exact ih (h.missHead kt hs)

theorem fullCount (kt : A .tracker) (hs : P s) : P s.fullCount := by
  have h0 : P (s.updTracker fun x => { x with prescale := 0 }) := h.updTracker kt _ hs
  have h1 : ∀ {s}, P s → P s.closeWindow := fun {s} hs => by
    unfold State.closeWindow
    refine h.updTracker kt _ ?_
    split
    · exact hs
    · exact h.recordFault _ _ _ _ hs
  have h2 : ∀ {s}, P s → P s.movePhase := fun {s} hs => by
    unfold State.movePhase
    dsimp only
    split
    · exact h.slotPassage _ (h.updTracker kt _ hs)
    · exact h.updTracker kt _ hs
  have h3 : ∀ {s}, P s → P s.ageWatch := fun hs => h.missUpTo kt _ (h.updTracker kt _ hs)
  have h4 : ∀ {s}, P s → P s.ageApproach := fun hs => h.divertHead kt (h.updTracker kt _ hs)
  have h5 : ∀ {s}, P s → P s.recordInterval := fun hs => h.updTracker kt _ hs
  exact h5 (h4 (h3 (h2 (h1 h0))))

theorem encoderPulse (kt : A .tracker) (hs : P s) : P s.encoderPulse := by
  unfold State.encoderPulse
  split
  · exact h.fullCount kt hs
  · exact h.updTracker kt _ hs

theorem land (kl : A .landing) {c : Contest} (hc : s.contestOf c.tote = some c) (hs : P s) : P (s.land c) := by
  refine h.completionTest (h.route (h.spendIfDue _ (h.queueToAll _ (h.forget _ (h.write _ ?_)))))
  exact h.lines (bindLines c.bound .reserved (.tote c.tote) s.lines) (h.landing kl c (c.toTote s.now) hc rfl hs)

theorem laneEntry (kt : A .tracker) (kl : A .landing) (hs : P s) : P s.laneEntry := by
  unfold State.laneEntry
  split
  · exact hs
  · have h1 := h.updTracker kt (fun x => { x with watch := ‹List WatchEntry› }) hs
    unfold State.confirmLanding
    split
    · exact h1
    · rename_i c hc
      split
      · exact h.land kl ((State.contestOf_some hc).2 ▸ hc) h1
      · exact h1

/-! ### Ports -/

theorem seatTote (p : Nat) (hs : P s) : P (s.seatTote p) := by
  refine h.allocationPass p (h.floor _ ?_ hs)
  exact (FloorStep.updPort s.floor p
    (fun q => { q with state := .presented, seatTimer := none, occupied := true }) (fun _ => rfl) fun _ => Or.inr rfl).trans
    (FloorStep.of_same rfl rfl rfl)

theorem afterVacate (hs : P s) : P s.afterVacate := h.route (h.completionTest hs)

theorem clearPort {p : Nat} {q : Port} {t : Tote} (hq : s.floor.port p = some q) (ht : q.tote = some t) (hs : P s) :
    P (s.clearPort p t) :=
  h.afterVacate (h.write _ (h.floor _ (
    FloorStep.toReleaseLane s.floor hq ht (fun q => { q.vacate with occupied := false }) (fun _ => rfl) fun _ => rfl) hs))

theorem recordSeat (p : Nat) (b : Bool) (hs : P s) : P (s.recordSeat p b) :=
  h.updPort _ _ (fun _ => rfl) (fun _ => Or.inr rfl) hs

theorem seatReport (p : Nat) (b : Bool) (hs : P s) : P (s.seatReport p b) := by
  unfold State.seatReport
  split
  · exact hs
  · rename_i q hq
    split
    · exact hs
    · split
      · exact h.seatTote p hs
      · split
        · split
          · rename_i t ht; exact h.clearPort hq ht hs
          · exact h.recordSeat _ _ hs
        · split
          · exact h.route (h.recordSeat _ _ hs)
          · exact h.recordSeat _ _ hs

theorem seatTimeout (p : Nat) (hs : P s) : P (s.seatTimeout p) := by
  unfold State.seatTimeout
  split
  · exact hs
  · split
    · refine h.passesIf _ (h.lines _ (h.updPort _ _ (fun _ => rfl) (fun q => Or.inr ?_) (h.recordFault _ _ _ _
        (h.updPort _ _ (fun _ => rfl) (fun _ => Or.inr rfl) hs))))
      cases q.tote <;> rfl
    · exact hs

theorem clearKey (p : Nat) (hs : P s) : P (s.clearKey p) := by
  unfold State.clearKey
  split
  · exact hs
  · split
    · split
      · exact h.afterVacate (h.vacate _ (h.write _ hs))
      · exact h.afterVacate (h.vacate _ hs)
    · exact hs

theorem merge (hs : P s) : P s.merge := by
  have fin : ∀ {s}, P s → P s.afterMerge := fun {s} hs => by
    unfold State.afterMerge
    dsimp only
    split
    · exact h.completionTest (h.grantRoom hs)
    · exact h.grantRoom hs
  have unk : ∀ x, P (s.phaseUnknown x) ∧ (s.phaseUnknown x).floor = s.floor := fun x => by
    unfold State.phaseUnknown
    split
    · split
      · exact ⟨hs, rfl⟩
      · exact ⟨h.recordFault _ _ _ _ hs, rfl⟩
    · exact ⟨hs, rfl⟩
  have que : ∀ {s} x, P s → P (s.queueRelease x) ∧ (s.queueRelease x).floor = s.floor := fun {s} x hs => by
    unfold State.queueRelease
    split
    · refine ⟨h.queueToAll _ hs, ?_⟩
      unfold State.queueToAll State.queueFrame
      split <;> rfl
    · exact ⟨hs, rfl⟩
  unfold State.merge
  split
  · exact hs
  · rename_i head rest hl
    cases head with
    | none => exact fin (h.floor _ (FloorStep.dropHead _ hl) hs)
    | some x =>
        have h2 := que x (unk x).1
        refine fin (h.floor _ (FloorStep.dropHead _ (x := some x) ?_) h2.1)
        rw [h2.2, (unk x).2, hl]

/-! ### Panel -/

theorem endTask {t : Task} (ht : s.panel.task = some t) (hs : P s) : P (s.endTask t) := h.panel _ (.done t ht) hs

theorem unlist (t : ToteId) (o : OrderId) (n : Byte) (hs : P s) : P (s.unlist t o n) := h.updTote _ _ (fun _ => rfl) hs

theorem withdrawAt (p : Nat) (hs : P s) : P (s.withdrawAt p) := by
  unfold State.withdrawAt
  split
  · rename_i t ht
    split
    · refine h.taskChoice (h.releaseTest _ ?_)
      unfold State.withdrawLine
      dsimp only
      split
      · exact h.orderCheck _ (h.unlist _ _ _ (h.updLine _ _ _ (h.endTask ht hs)))
      · exact h.updLine _ _ _ (h.endTask ht hs)
    · exact hs
  · exact hs

theorem putReport (p : Nat) (b : Bool) (hs : P s) : P (s.putReport p b) := by
  unfold State.putReport
  have u : ∀ {s} f, P s → P (s.updPut p f) := fun f hs => h.updPut p f hs
  split
  · exact hs
  · split
    · exact hs
    · dsimp only
      split
      · exact h.withdrawAt _ (u _ (u _ hs))
      · exact h.taskChoice (u _ (u _ hs))
      · exact u _ (u _ hs)
      · split
        · exact h.write _ (u _ (u _ hs))
        · exact u _ hs
      all_goals exact u _ hs

theorem applyConfirm {t : Task} (ht : s.panel.task = some t) (hs : P s) : P (s.applyConfirm t) := by
  refine h.taskChoice (h.releaseTest _ (h.passesIf _ (h.orderCheck _ (h.write _ ?_))))
  refine h.lines _ (h.updTote _ _ (fun _ => rfl) (h.unlist _ _ _ (h.updLine _ _ _ (h.updTote _ _ (fun _ => rfl) ?_))))
  exact h.endTask ht hs

theorem confirmKey (ka : A .act) (p : Nat) (hs : P s) : P (s.confirmKey p) := by
  unfold State.confirmKey
  split
  · rename_i t ht
    split
    · exact h.applyConfirm ht hs
    · rename_i hp
      exact h.act ka _ (.flash p (by simp [ht, hp])) hs
  · rename_i ht
    exact h.act ka _ (.flash p (by simp [ht])) hs

theorem shortKey (ka : A .act) (hs : P s) : P s.shortKey := by
  unfold State.shortKey
  split
  · exact hs
  · rename_i t ht; exact h.act ka _ (.lower t ht) hs

/-! ### Clock -/

omit h in
theorem countDown_id (x : Tote) : x.countDown.id = x.id := by unfold Tote.countDown; split <;> rfl

omit h in
theorem spendAll (k : Keeps P) (hs : P s) : P s.spendAll := by
  unfold State.spendAll
  refine KeepsFloor.foldl _ (fun _ hs => k.allPasses hs) _ ?_
  refine KeepsFloor.foldl _ (fun (d : ToteId × Tote) hs => k.spendRelease d.1 hs) _ ?_
  exact KeepsFloor.foldl _ (fun (d : ToteId × Tote) hs => k.spendRecord d.1 d.2 hs) _ hs

theorem tickWork (ka : A .act) (hs : P s) : P s.tickWork := by
  have hf := h.floor (s.floor.mapTotes Tote.countDown) (FloorStep.mapTotes s.floor Tote.countDown countDown_id) hs
  have hp := h.act ka (s := { s with floor := s.floor.mapTotes Tote.countDown }) s.panel.tick .tick hf
  exact spendAll h.toKeeps hp

theorem dueWork (ka : A .act) (hs : P s) : P s.dueWork := by
  unfold State.dueWork
  refine KeepsFloor.foldl _ (fun p hs => h.seatTimeout p hs) _ (KeepsFloor.foldl _ (fun t hs => h.expireRound t hs) _ ?_)
  split
  · exact h.tickWork ka hs
  · exact hs

omit h in
theorem whenLive {f : State → State} (hf : ∀ {s}, P s → P (f s)) (hs : P s) : P (Machine.whenLive f s) := by
  unfold Machine.whenLive
  split
  · exact hf hs
  · exact hs

theorem idle (ka : A .act) (kc : A .clock) (hs : P s) : P s.idle := by
  unfold State.idle
  split
  · exact hs
  · exact whenLive (h.dueWork ka) (h.clock kc _ hs)

/-! ### Frames -/

omit h in
/-- A tote that the store does not hold is not brought in by the end of a contest. -/
theorem noTote (t : ToteId) : Keeps fun s => s.floor.portNums.Nodup → s.toteStands t = false where
  lines _ h := h
  puts _ h := h
  lanes _ h := h
  contests _ _ h := h
  roster _ _ h := h
  floor {s} x hx h := fun n => by
    have n0 : s.floor.portNums.Nodup := hx.nums ▸ n
    have hs := h n0
    rw [State.toteStands, Bool.eq_false_iff, ne_eq, Floor.stands_iff, ← List.count_pos_iff] at hs ⊢
    exact fun hp => hs (hp.trans_le (hx.ids n0 t))
  panel _ _ h := h
  write _ h := h
  faults _ h := h
  enqueue _ h := h
  withdraw _ h := h
  closed _ _ h := h

theorem scoreOffer (ke : A .enter) (o : OfferFrame) (hc : s.contestOf o.tote = none)
    (ht : s.floor.portNums.Nodup → s.toteStands o.tote = false) (hs : P s) : P (s.scoreOffer o) := by
  unfold State.scoreOffer
  have h1 := h.lanes (s.bidForm (s.offerQuery o)).lanes hs
  dsimp only
  split
  · exact h1
  · rename_i hz
    exact h.queueFrame _ (h.enter ke (State.offerRecord s o (s.bidForm (s.offerQuery o))) hc ht
      (committed_of_eligible (eligible_of_score hz)) h1)

theorem handleOffer (ke : A .enter) (o : OfferFrame) (hs : P s) : P (s.handleOffer o) := by
  unfold State.handleOffer
  split
  · exact hs
  · rename_i hst
    have hf : s.floor.portNums.Nodup → s.toteStands o.tote = false := fun _ => by simpa using hst
    split
    · rename_i hc; exact h.scoreOffer ke o hc hf hs
    · rename_i c hc
      have ec := (State.contestOf_some hc).2
      have again : ∀ r, P ((s.endContest c r c.slot).scoreOffer o) := fun r =>
        h.scoreOffer ke o (ec ▸ State.endContest_gone s c r c.slot) ((noTote o.tote).endContest c r c.slot hf)
          (h.endContest _ _ _ hs)
      split
      · exact hs
      · split
        · exact hs
        · exact again _
      · split
        · exact hs
        · exact again _
      all_goals exact again _

theorem takeOffer (kf : A .fresh) (ke : A .enter) (o : OfferFrame) (hs : P s) : P (s.takeOffer o) := by
  unfold State.takeOffer
  split
  · exact h.recordFrameFault _ _ hs
  · exact h.handleOffer ke _ (h.fresh kf _ hs)

theorem takeGrant (kg : A .arrival) (g : GrantFrame) (hs : P s) : P (s.takeGrant g) := by
  unfold State.takeGrant
  split
  · split
    · exact h.reply _ _ hs
    · unfold State.enterGrant
      have h1 := h.lines (s.lines ++ g.lines.mapIdx (s.grantedLine g)) hs
      have h2 := h.arrival kg (s.arrival + g.lines.length) h1
      exact h.allPasses (h.reply _ _ (h.updPut _ _ h2))
  · exact hs

theorem cancelOrder (n : Nat) (o : OrderId) (hs : P s) : P (s.cancelOrder n o) := by
  unfold State.cancelOrder
  refine h.reply _ _ (h.orderCheck _ (KeepsFloor.foldl _ (fun p hs => h.releaseTest p hs) _ (KeepsFloor.foldl _ (fun t hs => ?_) _ ?_)))
  · unfold State.giveBackEmpty
    split
    · exact hs
    · split
      · exact h.endContest _ _ _ hs
      · exact hs
  · have h1 := h.contests (s.contests.map fun c => { c with bound := c.bound.filter fun b => !s.cancels o b })
      (by rw [List.map_map]; exact List.Sublist.refl _) (h.lines (s.lines.map (Line.cancel o)) hs)
    exact h.floor (s := { s with
        lines := s.lines.map (Line.cancel o),
        contests := s.contests.map fun c => { c with bound := c.bound.filter fun b => !s.cancels o b } }) _
      (FloorStep.mapTotes s.floor (fun x => { x with bound := x.bound.filter fun b => !s.cancels o b }) fun _ => rfl) h1

theorem takeCancel (d : Dest) (o : OrderId) (hs : P s) : P (s.takeCancel d o) := by
  unfold State.takeCancel
  split
  · split
    · exact h.reply _ _ hs
    · split
      · exact h.reply _ _ hs
      · exact h.cancelOrder _ _ hs
  · exact hs

theorem takeFetch (kj : A .fetched) (d : Dest) (k : Byte) (hs : P s) : P (s.takeFetch d k) := by
  unfold State.takeFetch
  split
  · split
    · exact h.reply _ _ hs
    · refine h.queueTo _ _ ?_
      unfold State.dropEntries
      dsimp only
      split
      · exact h.taskChoice (h.fetched kj _ hs)
      · exact h.fetched kj _ hs
  · exact hs

theorem takeMark (d : Dest) (n : Nat) (ws : List Word) (hs : P s) : P (s.takeMark d n ws) := by
  unfold State.takeMark
  split
  · split
    · exact h.reply _ _ hs
    · unfold State.markEntry
      split
      · exact h.reply _ _ hs
      · exact h.reply _ _ (h.write _ hs)
  · exact hs

theorem takeClearFaults (kd : A .cleared) (d : Dest) (m : BitVec 16) (hs : P s) : P (s.takeClearFaults d m) := by
  unfold State.takeClearFaults
  split
  · exact h.reply _ _ (h.cleared kd _ hs)
  · exact hs

theorem takeStatus (d : Dest) (hs : P s) : P (s.takeStatus d) := by
  unfold State.takeStatus
  split
  · exact h.reply _ _ hs
  · exact hs

theorem takeMalformedControl (d : Dest) (a : Byte) (hs : P s) : P (s.takeMalformedControl d a) := by
  unfold State.takeMalformedControl
  split
  · exact h.reply _ _ hs
  · exact hs

/-! ### Modes -/

theorem takeOpen (km : A .mode) (d : Dest) (hs : P s) : P (s.takeOpen d) := by
  unfold State.takeOpen
  split
  · refine h.reply _ _ ?_
    unfold State.openBench
    split
    · exact hs
    · exact h.taskChoice (h.write _ (h.reopen km hs))
  · exact hs

theorem takeCloseSoft (km : A .mode) (d : Dest) (hs : P s) : P (s.takeCloseSoft d) := by
  unfold State.takeCloseSoft
  split
  · split
    · rename_i hm; exact h.soft km _ hm hs
    · rename_i hm; exact h.reply _ _ (h.replace km _ (by rw [hm]; rfl) hs)
    · rename_i hm; exact h.reply _ _ (h.replace km _ (by rw [hm]; rfl) hs)
    · exact h.queueTo _ _ (h.reply _ _ hs)
  · exact hs

theorem takeCloseHard (km : A .mode) (d : Dest) (hs : P s) : P (s.takeCloseHard d) := by
  unfold State.takeCloseHard
  split
  · split
    · rename_i hm; exact h.hard km _ (.inl hm) hs
    · rename_i hm; exact h.hard km _ (.inr hm) hs
    · rename_i hm; exact h.reply _ _ (h.replace km _ (by rw [hm]; rfl) hs)
    · exact h.queueTo _ _ (h.reply _ _ hs)
  · exact hs

/-! ### Bus -/

theorem deliver (kf : A .fresh) (ke : A .enter) (kg : A .arrival) (kj : A .fetched) (km : A .mode) (kd : A .cleared)
    (bs : List Byte) (r : Received) (hs : P s) : P (s.deliver bs r) := by
  cases r with
  | badCheck => exact h.recordFrameFault _ _ hs
  | badForm => exact h.recordFrameFault _ _ hs
  | nothing => exact hs
  | offer o => exact h.takeOffer kf ke _ hs
  | bid a b c t => exact h.takeBid _ _ hs
  | take a b c t l => exact h.takeTake _ _ hs
  | landed a t => exact h.takeLanded _ _ hs
  | exit a t => exact h.takeExit _ hs
  | grant g => exact h.takeGrant kg _ hs
  | cancel d o => exact h.takeCancel _ _ hs
  | fetch d k => exact h.takeFetch kj _ _ hs
  | modeAction a d =>
      cases a with
      | opened => exact h.takeOpen km _ hs
      | closeSoft => exact h.takeCloseSoft km _ hs
      | closeHard => exact h.takeCloseHard km _ hs
  | status d => exact h.takeStatus _ hs
  | clearFaults d m => exact h.takeClearFaults kd _ _ hs
  | mark d n ws => exact h.takeMark _ _ _ hs
  | malformedControl d a => exact h.takeMalformedControl _ _ hs

theorem startHead (kx : A .start) (hs : P s) : P s.startHead := by
  unfold State.startHead
  split
  · exact hs
  · rename_i hn
    split
    · exact hs
    · rename_i hq; exact h.start kx (by simpa using hn) hq hs

theorem carriedAs (kr : A .received) (ky : A .carry) (e : TxEntry) {f : State → State} (hf : ∀ {s}, P s → P (f s))
    (hs : P s) : P (s.carriedAs e f) := by
  have h1 : P (s.takeCarriage e) := h.received kr _ (h.carry ky hs)
  unfold State.carriedAs
  refine h.requeueTakes ?_
  split
  · exact h1
  · exact hf h1

theorem bidCarried (kr : A .received) (ky : A .carry) (hs : P s) : P s.bidCarried := by
  unfold State.bidCarried
  split
  · exact hs
  · split
    · exact h.carriedAs kr ky _ (fun hs => h.ownBidCarried _ hs) hs
    · exact hs

theorem takeCarried (kr : A .received) (ky : A .carry) (hs : P s) : P s.takeCarried := by
  unfold State.takeCarried
  split
  · exact hs
  · split
    · exact h.carriedAs kr ky _ (fun hs => h.ownTakeCarried _ hs) hs
    · exact hs

theorem otherCarried (kr : A .received) (ky : A .carry) (hs : P s) : P s.otherCarried := by
  unfold State.otherCarried
  split
  · exact hs
  · split
    · exact hs
    · exact hs
    · exact h.carriedAs kr ky _ (fun hs => hs) hs

/-! ### Every command -/

/-- A command that neither takes nor holds a reset keeps what `KeepsAll` covers, if it makes only changes that `A` names. -/
theorem exec (c : Instr) (hc : resets c = false) (ha : ∀ k ∈ changes c, A k) {t : State} (he : Machine.exec c s = .next t) (hs : P s) :
    P t := by
  have frame : A .received → ∀ {f : State → State}, (∀ {s}, P s → P (f s)) → ∀ {s}, P s → P (f s.clearReceived) :=
    fun kr _ hf _ hs => hf (h.received kr _ hs)
  have key : ∀ {f : State → State}, (∀ {s}, P s → P (f s)) → Machine.taken f s = .next t → P t := fun hf he => by
    cases he; exact whenLive hf hs
  cases c with
  | coldReset _ => cases hc
  | warmReset _ => cases hc
  | supplyFall => cases hc
  | resetAssertion => cases hc
  | encoderPulse => exact key (h.encoderPulse (ha _ (by simp [changes]))) he
  | advance => exact key (h.fullCount (ha _ (by simp [changes]))) he
  | homeMark => exact key (h.homeMark (ha _ (by simp [changes]))) he
  | readerReport r => exact key (fun hs => h.readerReport (ha _ (by simp [changes])) (ha _ (by simp [changes])) r hs) he
  | divert => exact key (h.divertHead (ha _ (by simp [changes]))) he
  | divertMiss => exact key (h.missHead (ha _ (by simp [changes]))) he
  | lapseWindowClose t => exact key (fun hs => h.lapseIfDue t hs) he
  | laneEntry => exact key (h.laneEntry (ha _ (by simp [changes])) (ha _ (by simp [changes]))) he
  | seat p => exact key (fun hs => h.seatReport p _ hs) he
  | seatSensorReport p b => exact key (fun hs => h.seatReport p _ hs) he
  | seatTimeout p => exact key (fun hs => h.seatTimeout p hs) he
  | clearKey p => exact key (fun hs => h.clearKey p hs) he
  | portClear p => exact key (fun hs => h.seatReport p _ hs) he
  | merge => exact key h.merge he
  | putSensorReport p b => exact key (fun hs => h.putReport p b hs) he
  | confirmKey p => exact key (fun hs => h.confirmKey (ha _ (by simp [changes])) p hs) he
  | shortKey => exact key (h.shortKey (ha _ (by simp [changes]))) he
  | secondTick =>
      cases he
      split
      · exact hs
      · exact whenLive (h.tickWork (ha _ (by simp [changes]))) (h.clock (ha _ (by simp [changes])) _ hs)
  | exposureSpent t => exact key (fun hs => h.spendIfDue t hs) he
  | putFlashEnd p => exact key (fun hs => h.act (ha _ (by simp [changes])) _ (.settle p) hs) he
  | roundClose t => exact key (fun hs => h.expireRound t hs) he
  | offer o =>
      exact key (frame (ha _ (by simp [changes])) fun hs =>
        h.takeOffer (ha _ (by simp [changes])) (ha _ (by simp [changes])) o hs) he
  | bid a b c t => exact key (frame (ha _ (by simp [changes])) fun hs => h.takeBid _ t hs) he
  | take a b c t l => exact key (frame (ha _ (by simp [changes])) fun hs => h.takeTake _ t hs) he
  | landed a t => exact key (frame (ha _ (by simp [changes])) fun hs => h.takeLanded a t hs) he
  | exit a t => exact key (frame (ha _ (by simp [changes])) fun hs => h.takeExit t hs) he
  | grant g => exact key (frame (ha _ (by simp [changes])) fun hs => h.takeGrant (ha _ (by simp [changes])) g hs) he
  | cancel d o => exact key (frame (ha _ (by simp [changes])) fun hs => h.takeCancel d o hs) he
  | fetch d k => exact key (frame (ha _ (by simp [changes])) fun hs => h.takeFetch (ha _ (by simp [changes])) d k hs) he
  | controlOpen d => exact key (frame (ha _ (by simp [changes])) fun hs => h.takeOpen (ha _ (by simp [changes])) d hs) he
  | closeSoft d => exact key (frame (ha _ (by simp [changes])) fun hs => h.takeCloseSoft (ha _ (by simp [changes])) d hs) he
  | closeHard d => exact key (frame (ha _ (by simp [changes])) fun hs => h.takeCloseHard (ha _ (by simp [changes])) d hs) he
  | status d => exact key (frame (ha _ (by simp [changes])) fun hs => h.takeStatus d hs) he
  | clearFaults d m =>
      exact key (frame (ha _ (by simp [changes])) fun hs => h.takeClearFaults (ha _ (by simp [changes])) d m hs) he
  | mark d n ws => exact key (frame (ha _ (by simp [changes])) fun hs => h.takeMark d n ws hs) he
  | frameReceived bs =>
      exact key (fun hs => h.deliver (ha _ (by simp [changes])) (ha _ (by simp [changes])) (ha _ (by simp [changes]))
        (ha _ (by simp [changes])) (ha _ (by simp [changes])) (ha _ (by simp [changes])) bs _
        (h.received (ha _ (by simp [changes])) _ hs)) he
  | transmitStart => exact key (h.startHead (ha _ (by simp [changes]))) he
  | arbitrationLost => exact key (h.stop (ha _ (by simp [changes]))) he
  | bidCarried => exact key (h.bidCarried (ha _ (by simp [changes])) (ha _ (by simp [changes]))) he
  | takeCarried => exact key (h.takeCarried (ha _ (by simp [changes])) (ha _ (by simp [changes]))) he
  | frameCarried => exact key (h.otherCarried (ha _ (by simp [changes])) (ha _ (by simp [changes]))) he

end KeepsAll

end Sys2Proof.Machine
end

