-- ==== Sys2Proof/Laws/Collections.lean ====
section
/-! SUPPORT. What the operations on the transmit queue, the roster and the panel keep: one lemma for each. -/

namespace Sys2Proof.Machine

/-! ### Transmit queue -/

/-- Placing a frame adds one. -/
theorem insertTx_length (e) (q) : (insertTx e q).length = q.length + 1 := by
  induction q with
  | nil => rfl
  | cons x xs ih => unfold insertTx; split <;> simp [ih]

/-- Placing a frame adds that frame and drops none. -/
theorem mem_insertTx (e) (q) (y) : y ∈ insertTx e q ↔ y = e ∨ y ∈ q := by
  induction q with
  | nil => simp [insertTx]
  | cons x xs ih =>
    unfold insertTx; split
    · rw [List.mem_cons, ih, List.mem_cons]; exact or_left_comm
    · rw [List.mem_cons]

/-- Placing a frame keeps the order of rank (R181). -/
theorem insertTx_sorted (e) (q : List TxEntry) (h : q.Pairwise fun a b => b.frame.rank ≤ a.frame.rank) :
   (insertTx e q).Pairwise fun a b => b.frame.rank ≤ a.frame.rank := by
  induction q with
  | nil => simp [insertTx]
  | cons x xs ih =>
    rw [List.pairwise_cons] at h
    unfold insertTx; split
    · rw [List.pairwise_cons]; refine ⟨fun y hy => ?_, ih h.2⟩
      rcases (mem_insertTx _ _ _).1 hy with rfl | hy
      · assumption
      · exact h.1 y hy
    · rename_i hn
      rw [List.pairwise_cons]; refine ⟨fun y hy => ?_, List.pairwise_cons.2 h⟩
      rcases List.mem_cons.1 hy with rfl | hy
      · omega
      · have := h.1 y hy; omega

/-- Placing a frame changes nothing in carriage. -/
theorem insertTx_carriage (e : TxEntry) (he : e.inCarriage = false) (q : List TxEntry) :
    ((insertTx e q).filter (·.inCarriage)).length = (q.filter (·.inCarriage)).length := by
  induction q with
  | nil => simp [insertTx, he]
  | cons x xs ih => unfold insertTx; split
                    · rw [List.filter_cons, List.filter_cons]; split <;> simp [ih]
                    · simp [List.filter_cons, he]

/-- Dropping the lowest frame takes one entry out (R181). -/
theorem splitLowest_sublist :
    ∀ (q : List TxEntry) d rest, splitLowest q = some (d, rest) → rest.Sublist q ∧ rest.length + 1 = q.length
  | [], _, _, h => by simp [splitLowest] at h
  | x :: xs, d, rest, h => by
    unfold splitLowest at h
    split at h
    · rename_i d' r' h'
      have := splitLowest_sublist xs _ _ h'
      simp at h; obtain ⟨rfl, rfl⟩ := h
      exact ⟨this.1.cons_cons x, by simp [this.2]⟩
    · split at h
      · simp at h
      · simp at h; obtain ⟨rfl, rfl⟩ := h; exact ⟨List.sublist_cons_self _ _, rfl⟩

/-- A queue that loses entries stays in form. -/
theorem QueueOk.sublist {q r : List TxEntry} (h : QueueOk q) (s : r.Sublist q) : QueueOk r :=
  ⟨s.length_le.trans h.size, h.sorted.sublist s, (s.filter _).length_le.trans h.carriage⟩

/-- Queueing a frame keeps the queue in form (R181). -/
theorem QueueOk.enqueue (q f) (h : QueueOk q) : QueueOk (Machine.enqueue q f).1 := by
  unfold Machine.enqueue
  dsimp only
  split
  · rename_i hl
    refine ⟨by simp [insertTx_length]; omega, insertTx_sorted _ _ h.sorted, by rw [insertTx_carriage _ rfl]; exact h.carriage⟩
  · split
    · rename_i d rest hs
      have := splitLowest_sublist _ _ _ hs
      split
      · have hr := h.sublist this.1
        refine ⟨?_, insertTx_sorted _ _ hr.sorted, by rw [insertTx_carriage _ rfl]; exact hr.carriage⟩
        have h1 := h.size; rw [insertTx_length]; omega
      · exact h
    · exact h

/-- Marks changed on the entries keep the queue in form. -/
theorem QueueOk.map (q : List TxEntry) (f : TxEntry → TxEntry) (hf : ∀ e, (f e).frame = e.frame)
    (hc : ∀ e, (f e).inCarriage = true → e.inCarriage = true) (h : QueueOk q) : QueueOk (q.map f) := by
  refine ⟨by simpa using h.size, ?_, ?_⟩
  · rw [List.pairwise_map]; simpa [hf] using h.sorted
  · rw [← List.countP_eq_length_filter, List.countP_map]
    refine le_trans (List.countP_mono_left fun e _ => hc e) ?_
    rw [List.countP_eq_length_filter]; exact h.carriage

/-- Removing the frames of a record keeps the queue in form. -/
theorem QueueOk.withdraw (t q) (h : QueueOk q) : QueueOk (withdrawFrames t q) := by
  unfold withdrawFrames
  apply QueueOk.map
  · intro e; split <;> rfl
  · intro e; split <;> exact id
  · exact h.sublist List.filter_sublist

/-! ### Roster -/

/-- A refresh keeps the roster in form (R63, R64). -/
theorem RosterOk.refresh (r : List RosterEntry) (e : RosterEntry) (h : RosterOk r) : RosterOk (refreshRoster r e) := by
  unfold refreshRoster
  split
  · rename_i ha
    rw [List.any_eq_true] at ha
    obtain ⟨x, hx, hxe⟩ := ha
    constructor
    · have : (r.filter fun x => x.tote != e.tote).length < r.length := by
        apply List.length_filter_lt_length_iff_exists.2
        exact ⟨x, hx, by simpa using hxe⟩
      have := h.size
      simp; omega
    · rw [List.map_append, List.nodup_append]
      refine ⟨h.once.sublist (List.filter_sublist.map _), by simp, ?_⟩
      intro a ha b hb
      simp at ha hb
      grind
  · rename_i hn
    have hn' : e.tote ∉ r.map (·.tote) := by simpa [List.any_eq_true] using hn
    have key : ∀ r' : List RosterEntry, r'.Sublist r → r'.length < 48 → RosterOk (r' ++ [e]) := by
      intro r' hs hl
      refine ⟨by simp [Config.rosterCapacity]; omega, ?_⟩
      rw [List.map_append, List.nodup_append]
      refine ⟨h.once.sublist (hs.map _), by simp, ?_⟩
      intro a ha b hb
      have := (hs.map (·.tote)).subset ha
      simp at hb; subst hb
      intro he; subst he; exact hn' this
    split
    · rename_i hl; exact key r (List.Sublist.refl _) hl
    · rename_i hl
      have hsz := h.size
      simp [Config.rosterCapacity] at hl hsz
      unfold discardOldest
      split
      · rename_i i hi
        apply key _ (List.eraseIdx_sublist _ _)
        rw [List.length_eraseIdx_of_lt]
        · omega
        · exact (List.findIdx?_eq_some_iff_findIdx_eq.1 hi).1
      · exact key _ (List.drop_sublist _ _) (by simp; omega)

/-! ### Panel -/

/-- Lighting a task and ending it keep the panel in form. -/
theorem PanelOk.step {a b : Panel} (k : PanelStep a b) (h : PanelOk a) : PanelOk b := by
  cases k with
  | light t hn =>
    refine ⟨?_, ?_, ?_⟩
    · simp only [Panel.setPort, Panel.setPut, List.mem_map]
      rintro _ ⟨q, hq, rfl⟩
      have := h.ports q hq; rw [hn] at this
      unfold PortPanel.shows at *
      simp at *; split <;> simp_all
    · simp only [Panel.setPort, Panel.setPut, List.mem_map]
      rintro _ ⟨q, hq, rfl⟩
      have := h.puts q hq; rw [hn] at this
      unfold PutPanel.shows at *
      simp at *; split <;> simp_all
      intro e; simp_all
    · simp only [Panel.setPort, Panel.setPut, List.mem_map]
      rintro _ ⟨q, hq, rfl⟩
      have := h.flash q hq
      split
      · rfl
      · exact this
  | done t ht =>
    refine ⟨?_, ?_, ?_⟩
    · simp only [Panel.endTask, Panel.setPort, Panel.setPut, List.mem_map]
      rintro _ ⟨q, hq, rfl⟩
      have := h.ports q hq; rw [ht] at this
      unfold PortPanel.shows at *
      simp at *; split <;> simp_all
    · simp only [Panel.endTask, Panel.setPort, Panel.setPut, List.mem_map]
      rintro _ ⟨q, hq, rfl⟩
      have := h.puts q hq; rw [ht] at this
      unfold PutPanel.shows at *
      simp at *; split <;> simp_all
      intro e; simp_all
    · simp only [Panel.endTask, Panel.setPort, Panel.setPut, List.mem_map]
      rintro _ ⟨q, hq, rfl⟩
      have := h.flash q hq
      split
      · rfl
      · exact this

/-- Key presses and second ticks keep the panel in form. -/
theorem PanelOk.act {a b : Panel} (k : PanelAct a b) (h : PanelOk a) : PanelOk b := by
  cases k with
  | lower t ht =>
    refine ⟨?_, ?_, ?_⟩
    · simp only [Panel.setPort, List.mem_map]
      rintro _ ⟨q, hq, rfl⟩
      have := h.ports q hq; rw [ht] at this
      unfold PortPanel.shows at *
      simp at *; split <;> simp_all
    · intro q hq
      have := h.puts q hq; rw [ht] at this
      simpa [PutPanel.shows] using this
    · exact h.flash
  | flash p hp =>
    refine ⟨h.ports, ?_, ?_⟩
    · simp only [Panel.updPutLight, List.mem_map]
      rintro _ ⟨q, hq, rfl⟩
      have := h.puts q hq
      unfold PutPanel.shows at *
      simp at *
      split
      · simp only
        rename_i e
        subst e
        unfold PutLight.flash
        split <;> simp_all
      · exact this
    · simp only [Panel.updPutLight, List.mem_map]
      rintro _ ⟨q, hq, rfl⟩
      have := h.flash q hq
      split
      · simp only [PutLight.flash]; split <;> rfl
      · exact this
  | settle p =>
    refine ⟨h.ports, ?_, ?_⟩
    · simp only [Panel.updPutLight, List.mem_map]
      rintro _ ⟨q, hq, rfl⟩
      have := h.puts q hq
      have y := h.flash q hq
      unfold PutPanel.shows at *
      split
      · have : q.light.settle = q.light := by
          unfold PutLight.settle; split <;> simp_all [PutLight.young]
        simp_all
      · exact this
    · simp only [Panel.updPutLight, List.mem_map]
      rintro _ ⟨q, hq, rfl⟩
      have y := h.flash q hq
      split
      · have : q.light.settle = q.light := by
          unfold PutLight.settle; split <;> simp_all [PutLight.young]
        simp_all
      · exact y
  | tick =>
    refine ⟨h.ports, ?_, ?_⟩
    · simp only [Panel.tick, List.mem_map]
      rintro _ ⟨q, hq, rfl⟩
      have := h.puts q hq
      unfold PutPanel.shows at *
      rw [← this]
      simp only [PutLight.tick, PutLight.settle]
      split <;> simp_all
      split <;> simp_all
    · simp only [Panel.tick, List.mem_map]
      rintro _ ⟨q, hq, rfl⟩
      generalize q.light = l
      cases l with
      | off => rfl
      | lit => rfl
      | flashing n =>
        simp only [PutLight.tick, PutLight.settle]
        split
        · rfl
        · simp [PutLight.young]; omega

end Sys2Proof.Machine
end

