-- ==== Sys2Proof/Laws/Lines.lean ====
section
/-! SUPPORT. The Line Table's operations, once: the keys they keep, the record a bound line names, and the lines an allocation lists. -/

namespace Sys2Proof.Machine

/-- The key of a line (R23). -/
abbrev Line.key (l : Line) : OrderId × Byte := (l.order, l.lineNo)

theorem Line.hasKey_iff (l : Line) (o : OrderId) (n : Byte) : l.hasKey o n = true ↔ l.key = (o, n) := by
  simp [Line.hasKey, Line.key, Prod.ext_iff]

theorem Line.isBound_iff (l : Line) (b : BoundLine) : l.isBound b = true ↔ l.key = (b.order, b.lineNo) := l.hasKey_iff _ _

/-! ### Keys -/

theorem keys_map (f : Line → Line) (hf : ∀ l, (f l).key = l.key) (ls : List Line) : (ls.map f).map Line.key = ls.map Line.key := by
  rw [List.map_map]
  exact List.map_congr_left fun l _ => hf l

theorem returnLines_keys (bs : List BoundLine) (ls : List Line) : (returnLines bs ls).map Line.key = ls.map Line.key :=
  keys_map _ (fun l => by split <;> rfl) ls

theorem bindLines_keys (bs : List BoundLine) (st : LineState) (r : Binding) (ls : List Line) :
    (bindLines bs st r ls).map Line.key = ls.map Line.key :=
  keys_map _ (fun l => by split <;> rfl) ls

theorem State.updLine_keys (s : State) (o : OrderId) (n : Byte) (f : Line → Line) (hf : ∀ l, (f l).key = l.key) :
    (s.updLine o n f).lines.map Line.key = s.lines.map Line.key :=
  keys_map _ (fun l => by split <;> simp [hf]) s.lines

/-! ### The record of a bound line -/

theorem State.lineOf_some {s : State} {b : BoundLine} {l : Line} (h : s.lineOf b = some l) : l ∈ s.lines ∧ l.isBound b = true :=
  ⟨List.mem_of_find?_eq_some h, List.find?_some (p := fun x : Line => x.isBound b) h⟩

/-- With keys that do not repeat, a line with the key is the record found. -/
theorem State.lineOf_of_mem {s : State} (n : (s.lines.map Line.key).Nodup) {b : BoundLine} {l : Line} (hl : l ∈ s.lines)
    (hb : l.isBound b = true) : s.lineOf b = some l := by
  obtain ⟨m, hm⟩ : ∃ m, s.lineOf b = some m :=
    Option.isSome_iff_exists.mp (List.find?_isSome.mpr ⟨l, hl, hb⟩)
  obtain ⟨hm1, hm2⟩ := State.lineOf_some hm
  have : m = l := List.inj_on_of_nodup_map n hm1 hl (((m.isBound_iff b).mp hm2).trans ((l.isBound_iff b).mp hb).symm)
  rw [hm, this]

theorem State.boundIn_of_mem {s : State} (n : (s.lines.map Line.key).Nodup) {b : BoundLine} {l : Line} (hl : l ∈ s.lines)
    (hb : l.isBound b = true) (st : LineState) : s.boundIn st b = (l.state == st) := by
  simp [State.boundIn, State.lineOf_of_mem n hl hb]

/-! ### What an allocation lists -/

theorem mem_insertDue (x y : Line) (ls : List Line) : y ∈ insertDue x ls ↔ y = x ∨ y ∈ ls := by
  induction ls with
  | nil => simp [insertDue]
  | cons z zs ih =>
      unfold insertDue
      split
      · simp
      · simp only [List.mem_cons, ih]
        tauto

theorem mem_sortDue (y : Line) (ls : List Line) : y ∈ sortDue ls ↔ y ∈ ls := by
  induction ls with
  | nil => rfl
  | cons x xs ih => simp [sortDue, mem_insertDue, ih]

/-- A candidate is a WAITING line of the class (R45). -/
theorem State.mem_candidates {s : State} {cls : TempClass} {skus : List Sku} {x : Line × Nat} (h : x ∈ s.candidates cls skus) :
    x.1 ∈ s.lines ∧ x.1.state = .waiting ∧ x.1.cls = cls ∧ firstComp skus x.1.sku = some x.2 := by
  obtain ⟨l, hl, hx⟩ := List.mem_filterMap.mp h
  obtain ⟨c, hc, rfl⟩ := Option.map_eq_some_iff.mp hx
  rw [mem_sortDue, List.mem_filter] at hl
  simp only [Bool.and_eq_true, beq_iff_eq] at hl
  exact ⟨hl.1, hl.2.1, hl.2.2, hc⟩

/-- An entry of an allocation was there before, or is a candidate's, with units that its line has outstanding (R51). -/
theorem allocate_listed (r : AllocRule) (cs : List (Line × Nat)) (a : Alloc) :
    ∀ b ∈ (allocate r cs a).listed, b ∈ a.listed ∨
      ∃ x ∈ cs, x.1.isBound b = true ∧ b.comp = x.2 ∧ 1 ≤ b.units ∧ b.units ≤ x.1.requested - x.1.picked := by
  induction cs generalizing a with
  | nil => exact fun b hb => Or.inl hb
  | cons x xs ih =>
      obtain ⟨l, c⟩ := x
      intro b hb
      unfold allocate at hb
      simp only at hb
      split at hb
      · exact (ih a b hb).imp id fun ⟨y, hy, h⟩ => ⟨y, List.mem_cons_of_mem _ hy, h⟩
      · split at hb
        · exact Or.inl hb
        · rcases ih _ b hb with h | ⟨y, hy, h⟩
          · rcases List.mem_append.mp h with h | h
            · exact Or.inl h
            · rw [List.mem_singleton] at h
              subst h
              refine Or.inr ⟨(l, c), List.mem_cons_self, ?_, rfl, ?_, ?_⟩
              · simp [Line.isBound, Line.hasKey]
              · exact Nat.one_le_iff_ne_zero.mpr (by assumption)
              · exact Nat.min_le_left _ _
          · exact Or.inr ⟨y, List.mem_cons_of_mem _ hy, h⟩

end Sys2Proof.Machine
end

