-- ==== Sys2Proof/WellFormed.lean ====
section
/-! DEFINITION. When a command's operands lie in the ranges the spec gives them. -/

namespace Sys2Proof

/-- A source is a station, 1..62; a range is two 6-bit addresses (00 section 4, 10 section 10.6). -/
def Dest.wf (d : Dest) : Bool := 1 ≤ d.src && d.src ≤ 62 && d.first ≤ 63 && d.last ≤ 63

/-- A tote has one, two or four compartments (R44). -/
def compsWf (cs : List Compartment) : Bool := cs.length == 1 || cs.length == 2 || cs.length == 4

/-- Slot of 10 bits, exposure field of 12 bits, 1, 2 or 4 compartments (10 section 10.6). -/
def OfferFrame.wf (o : OfferFrame) : Bool :=
  1 ≤ o.src && o.src ≤ 62 && o.slot ≤ 1023 && o.exposureField ≤ 4095 && compsWf o.comps

/-- Put field of 4 bits, count field naming 1..8, at most the 6 lines a payload of 48 bytes holds. -/
def GrantFrame.wf (g : GrantFrame) : Bool :=
  g.dest.wf && g.put ≤ 15 && 1 ≤ g.count && g.count ≤ 8 && g.lines.length ≤ 6

/-- Sensor lines of 11 section 11.4: 3 lane places, 4 seats, 2 release-lane places, 12 puts. -/
def Sensors.wf (x : Sensors) : Bool :=
  x.lane.length == 3 && x.seats.length == 4 && x.releaseLane.length == 2 && x.puts.length == 12

/-- A rank's fields (R178). -/
def keyWf (src score distance : Nat) : Bool := 1 ≤ src && src ≤ 62 && score ≤ 65535 && distance ≤ 1023

/-- A port of the part, 1..4. -/
def portWf (p : Nat) : Bool := 1 ≤ p && p ≤ 4

/-- A put of the part, 1..12. -/
def putWf (p : Nat) : Bool := 1 ≤ p && p ≤ 12

/-- Every operand lies in its range. -/
def Instr.wf : Instr → Bool
  | .coldReset x => x.wf
  | .warmReset x => x.wf
  | .encoderPulse => true
  | .advance => true
  | .homeMark => true
  | .readerReport _ => true
  | .divert => true
  | .divertMiss => true
  | .lapseWindowClose _ => true
  | .laneEntry => true
  | .seat p => portWf p
  | .seatSensorReport p _ => portWf p
  | .seatTimeout p => portWf p
  | .clearKey p => portWf p
  | .portClear p => portWf p
  | .merge => true
  | .putSensorReport p _ => putWf p
  | .confirmKey p => putWf p
  | .shortKey => true
  | .secondTick => true
  | .exposureSpent _ => true
  | .putFlashEnd p => putWf p
  | .roundClose _ => true
  | .offer o => o.wf
  | .bid src score distance _ => keyWf src score distance
  | .take src score distance _ _ => keyWf src score distance
  | .landed src _ => 1 ≤ src && src ≤ 62
  | .exit src _ => 1 ≤ src && src ≤ 62
  | .grant g => g.wf
  | .cancel d _ => d.wf
  | .fetch d _ => d.wf
  | .controlOpen d => d.wf
  | .closeSoft d => d.wf
  | .closeHard d => d.wf
  | .status d => d.wf
  | .clearFaults d _ => d.wf
  | .mark d count words => d.wf && 1 ≤ count && count ≤ 4 && words.length ≤ 11
  | .frameReceived bytes => bytes.length ≤ 73
  | .transmitStart => true
  | .arbitrationLost => true
  | .bidCarried => true
  | .takeCarried => true
  | .frameCarried => true
  | .supplyFall => true
  | .resetAssertion => true

end Sys2Proof
end

