-- ==== Sys2Proof/Laws/PerInstr.lean ====
section
/-! SUPPORT. Facts about every command as syntax, one lemma for each constructor: a well-formed command that carries a frame names a station
of the loop as its sender (00 section 4: addresses 1..62). -/

namespace Sys2Proof

/-- The station a command's frame comes from; none for a command that is no frame, or a frame as bytes. -/
def Instr.source : Instr → Option Nat
  | .coldReset _ => none
  | .warmReset _ => none
  | .encoderPulse => none
  | .advance => none
  | .homeMark => none
  | .readerReport _ => none
  | .divert => none
  | .divertMiss => none
  | .lapseWindowClose _ => none
  | .laneEntry => none
  | .seat _ => none
  | .seatSensorReport _ _ => none
  | .seatTimeout _ => none
  | .clearKey _ => none
  | .portClear _ => none
  | .merge => none
  | .putSensorReport _ _ => none
  | .confirmKey _ => none
  | .shortKey => none
  | .secondTick => none
  | .exposureSpent _ => none
  | .putFlashEnd _ => none
  | .roundClose _ => none
  | .offer o => some o.src
  | .bid src _ _ _ => some src
  | .take src _ _ _ _ => some src
  | .landed src _ => some src
  | .exit src _ => some src
  | .grant g => some g.dest.src
  | .cancel d _ => some d.src
  | .fetch d _ => some d.src
  | .controlOpen d => some d.src
  | .closeSoft d => some d.src
  | .closeHard d => some d.src
  | .status d => some d.src
  | .clearFaults d _ => some d.src
  | .mark d _ _ => some d.src
  | .frameReceived _ => none
  | .transmitStart => none
  | .arbitrationLost => none
  | .bidCarried => none
  | .takeCarried => none
  | .frameCarried => none
  | .supplyFall => none
  | .resetAssertion => none

namespace Laws.Sender

/-- The sender of a well-formed command is a station of the loop. -/
def Statement (i : Instr) : Prop := i.wf = true → ∀ n, i.source = some n → 1 ≤ n ∧ n ≤ 62

theorem ofDest {d : Dest} (h : d.wf = true) : 1 ≤ d.src ∧ d.src ≤ 62 := by
  simp only [Dest.wf, Bool.and_eq_true, decide_eq_true_eq] at h; omega

theorem coldReset (x : Sensors) : Statement (.coldReset x) := fun _ _ h => nomatch h
theorem warmReset (x : Sensors) : Statement (.warmReset x) := fun _ _ h => nomatch h
theorem encoderPulse : Statement (.encoderPulse) := fun _ _ h => nomatch h
theorem advance : Statement (.advance) := fun _ _ h => nomatch h
theorem homeMark : Statement (.homeMark) := fun _ _ h => nomatch h
theorem readerReport (r : ReaderReport) : Statement (.readerReport r) := fun _ _ h => nomatch h
theorem divert : Statement (.divert) := fun _ _ h => nomatch h
theorem divertMiss : Statement (.divertMiss) := fun _ _ h => nomatch h
theorem lapseWindowClose (t : ToteId) : Statement (.lapseWindowClose t) := fun _ _ h => nomatch h
theorem laneEntry : Statement (.laneEntry) := fun _ _ h => nomatch h
theorem seat (p : Nat) : Statement (.seat p) := fun _ _ h => nomatch h
theorem seatSensorReport (p : Nat) (occ : Bool) : Statement (.seatSensorReport p occ) := fun _ _ h => nomatch h
theorem seatTimeout (p : Nat) : Statement (.seatTimeout p) := fun _ _ h => nomatch h
theorem clearKey (p : Nat) : Statement (.clearKey p) := fun _ _ h => nomatch h
theorem portClear (p : Nat) : Statement (.portClear p) := fun _ _ h => nomatch h
theorem merge : Statement (.merge) := fun _ _ h => nomatch h
theorem putSensorReport (p : Nat) (occ : Bool) : Statement (.putSensorReport p occ) := fun _ _ h => nomatch h
theorem confirmKey (p : Nat) : Statement (.confirmKey p) := fun _ _ h => nomatch h
theorem shortKey : Statement (.shortKey) := fun _ _ h => nomatch h
theorem secondTick : Statement (.secondTick) := fun _ _ h => nomatch h
theorem exposureSpent (t : ToteId) : Statement (.exposureSpent t) := fun _ _ h => nomatch h
theorem putFlashEnd (p : Nat) : Statement (.putFlashEnd p) := fun _ _ h => nomatch h
theorem roundClose (t : ToteId) : Statement (.roundClose t) := fun _ _ h => nomatch h
theorem offer (o : OfferFrame) : Statement (.offer o) := fun h _ e => by
  cases e; simp only [Instr.wf, OfferFrame.wf, Bool.and_eq_true, decide_eq_true_eq] at h; omega
theorem bid (src : Nat) (score : Nat) (distance : Nat) (t : ToteId) : Statement (.bid src score distance t) := fun h _ e => by
  cases e; simp only [Instr.wf, keyWf, Bool.and_eq_true, decide_eq_true_eq] at h; omega
theorem take (src score distance : Nat) (t : ToteId) (late : Bool) : Statement (.take src score distance t late) := fun h _ e => by
  cases e; simp only [Instr.wf, keyWf, Bool.and_eq_true, decide_eq_true_eq] at h; omega
theorem landed (src : Nat) (t : ToteId) : Statement (.landed src t) := fun h _ e => by
  cases e; simp only [Instr.wf, Bool.and_eq_true, decide_eq_true_eq] at h; omega
theorem exit (src : Nat) (t : ToteId) : Statement (.exit src t) := fun h _ e => by
  cases e; simp only [Instr.wf, Bool.and_eq_true, decide_eq_true_eq] at h; omega
theorem grant (g : GrantFrame) : Statement (.grant g) := fun h _ e => by
  cases e; simp only [Instr.wf, GrantFrame.wf, Bool.and_eq_true] at h; exact ofDest h.1.1.1.1
theorem cancel (d : Dest) (order : OrderId) : Statement (.cancel d order) := fun h _ e => by cases e; exact ofDest h
theorem fetch (d : Dest) (k : Byte) : Statement (.fetch d k) := fun h _ e => by cases e; exact ofDest h
theorem controlOpen (d : Dest) : Statement (.controlOpen d) := fun h _ e => by cases e; exact ofDest h
theorem closeSoft (d : Dest) : Statement (.closeSoft d) := fun h _ e => by cases e; exact ofDest h
theorem closeHard (d : Dest) : Statement (.closeHard d) := fun h _ e => by cases e; exact ofDest h
theorem status (d : Dest) : Statement (.status d) := fun h _ e => by cases e; exact ofDest h
theorem clearFaults (d : Dest) (mask : BitVec 16) : Statement (.clearFaults d mask) := fun h _ e => by cases e; exact ofDest h
theorem mark (d : Dest) (count : Nat) (words : List Word) : Statement (.mark d count words) := fun h _ e => by
  cases e; simp only [Instr.wf, Bool.and_eq_true] at h; exact ofDest h.1.1.1
theorem frameReceived (bytes : List Byte) : Statement (.frameReceived bytes) := fun _ _ h => nomatch h
theorem transmitStart : Statement (.transmitStart) := fun _ _ h => nomatch h
theorem arbitrationLost : Statement (.arbitrationLost) := fun _ _ h => nomatch h
theorem bidCarried : Statement (.bidCarried) := fun _ _ h => nomatch h
theorem takeCarried : Statement (.takeCarried) := fun _ _ h => nomatch h
theorem frameCarried : Statement (.frameCarried) := fun _ _ h => nomatch h
theorem supplyFall : Statement (.supplyFall) := fun _ _ h => nomatch h
theorem resetAssertion : Statement (.resetAssertion) := fun _ _ h => nomatch h

end Laws.Sender

end Sys2Proof
end

