-- ==== Sys2Proof/Tests/Slice0.lean ====
section
/-! SUPPORT. Tests: ill-formed commands refused, small facts of the spec's own examples, one step of every command on a small bench, and
for every statement of Certificates/Slice0 a state and operands that meet its hypotheses. -/

namespace Sys2Proof.Tests

open Sys2Proof.Machine

/-! ### Small states -/

/-- An open HOMED bench, the phase at the reader. -/
def bench : State := { State.reset with mode := .opened, tracker := { Tracker.reset with phase := 37, homed := true } }

/-- One order line of order 1 at put 1: SKU 7, 1 of 5 picked. -/
def line (n : Byte) (st : LineState) : Line :=
  { order := 1, lineNo := n, sku := 7, put := 1, requested := 5, picked := 1, short := false, cancelPending := false,
    due := 10, cls := .ambient, arrival := n.toNat, state := st, binding := none }

/-- A contest record of tote `t` for slot 50. -/
def record (t : ToteId) (st : ContestState) : Contest :=
  { tote := t, slot := 50, cls := .ambient, comps := [{ sku := 7, qty := 5 }], exposure := 0, heard := 0,
    key := { score := 3, dist := 4, addr := 12 }, bestOther := none, state := st, roundTimer := none, window := 0,
    readMark := false, bound := [], saturated := false, late := false }

/-- The bench with that record alone. -/
def contesting (st : ContestState) : State := { bench with contests := [record 9 st] }

/-- An entry of a list of bound lines: 3 units of compartment 1 for a line of order 1. -/
def bound (n : Byte) : BoundLine := { order := 1, lineNo := n, comp := 1, units := 3 }

/-- A tote of one compartment of SKU 7. -/
def box (t : Option ToteId) (bs : List BoundLine) : Tote :=
  { id := t, cls := some .ambient, comps := [{ sku := 7, qty := 8, emptied := false }], exposure := none, landed := 0,
    bound := bs, cause := none, spentTaken := false }

/-- A CHILLED tote with exposure `e`. -/
def cold (t : ToteId) (e : Nat) : Tote := { box (some t) [] with cls := some .chilled, exposure := some e }

/-- Port 1 in a state with a tote. -/
def portAt (st : PortState) (occ : Bool) (x : Option Tote) : Port :=
  { num := 1, state := st, tote := x, seatTimer := none, occupied := occ, routerStrokes := 0, releaseStrokes := 0 }

/-- The bench with one port. -/
def atPort (st : PortState) (occ : Bool) (x : Option Tote) : State :=
  { bench with floor := { Floor.vacant 0 with ports := [portAt st occ x] } }

/-- The bench with a tote presented at port 1. -/
def presenting (x : Tote) : State :=
  { bench with floor := { Floor.vacant 0 with ports := [portAt .presented true (some x)], presentation := [1] } }

/-- Put 1 in a state. -/
def putAt (st : PutState) (occ emptied : Bool) : State :=
  { bench with puts := [{ num := 1, state := st, order := some 1, occupied := occ, emptied := emptied }] }

/-- A task on line 1 of order 1 from port 1. -/
def task (display : Nat) : Task :=
  { tote := 9, port := 1, order := 1, lineNo := 1, put := 1, comp := 1, units := 3, display := display }

/-- A lit task on the tote at port 1, with a second line on it. -/
def picking (requested display : Nat) : State :=
  { presenting (box (some 9) [bound 1, bound 2]) with
    lines := [{ line 1 .active with requested := requested }, line 2 .reserved]
    puts := [{ num := 1, state := .opened, order := some 1, occupied := true, emptied := false }]
    panel := { bench.panel with task := some (task display) } }

/-- A station's frame to this bench alone, to another, and to all. -/
def me : Dest := { src := 60, first := 12, last := 12 }
def other : Dest := { src := 60, first := 13, last := 13 }
def everyone : Dest := { src := 60, first := 1, last := 62 }

/-- An OFFER of tote 9. -/
def anOffer (slot : Nat) (cause : OfferCause) : OfferFrame :=
  { src := 60, tote := 9, slot := slot, cause := cause, cls := .ambient, comps := [{ sku := 7, qty := 5 }], exposureField := 0 }

/-- A GRANT of one line. -/
def aGrant (put : Nat) (x : GrantLine) : GrantFrame := { dest := me, order := 1, put := put, count := 1, lines := [x] }

def grantLine : GrantLine := { lineNo := 4, sku := 7, qtyField := 255, cls := some .ambient, slack := 961 }

/-- A frame of the bench in the transmit queue. -/
def sent (p : Payload) (carried : Bool) : TxEntry :=
  { frame := { score := 3, dist := 4, src := 12, first := 1, last := 62, payload := p }, inCarriage := carried, ownerEnded := false }

/-- Sensors with every place empty. -/
def clear : Sensors :=
  { lane := [false, false, false], seats := [false, false, false, false], releaseLane := [false, false],
    puts := List.replicate 12 false }

/-- The same bench without an image, with the RESET line asserted, and with the supply low. -/
def unconfigured : State := { bench with image := none }
def asserted : State := { bench with power := { Power.running with resetAsserted := true } }
def unpowered : State := { bench with power := { supplyOk := false, resetAsserted := false, coldPending := true } }

/-- A journal with fewer than 192 words free. -/
def fullJournal : Journal :=
  { entries := [{ time := 0, delta := none, body := .mark (List.replicate 1900 0) }], oldest := 0, lastTime := some 0, bound := true }

/-! ### Ill-formed commands -/

theorem test_wf_sensors : (Instr.coldReset { clear with seats := [] }).wf = false := by decide
theorem test_wf_sensors_warm : (Instr.warmReset { clear with puts := [] }).wf = false := by decide
theorem test_wf_port : (Instr.seat 0).wf = false ∧ (Instr.seatTimeout 5).wf = false ∧ (Instr.clearKey 5).wf = false ∧
    (Instr.portClear 0).wf = false ∧ (Instr.seatSensorReport 5 true).wf = false := by decide
theorem test_wf_put : (Instr.confirmKey 0).wf = false ∧ (Instr.putSensorReport 13 true).wf = false ∧
    (Instr.putFlashEnd 13).wf = false := by decide
theorem test_wf_offer : (Instr.offer { anOffer 1024 .infeed with slot := 1024 }).wf = false ∧
    (Instr.offer { anOffer 0 .infeed with exposureField := 4096 }).wf = false ∧
    (Instr.offer { anOffer 0 .infeed with src := 63 }).wf = false ∧
    (Instr.offer { anOffer 0 .infeed with comps := [] }).wf = false := by decide
theorem test_wf_key : (Instr.bid 0 1 1 9).wf = false ∧ (Instr.bid 60 65536 1 9).wf = false ∧
    (Instr.take 60 1 1024 9 false).wf = false := by decide
theorem test_wf_source : (Instr.landed 0 9).wf = false ∧ (Instr.exit 63 9).wf = false := by decide
theorem test_wf_dest : (Instr.cancel { me with src := 0 } 1).wf = false ∧ (Instr.fetch { me with first := 64 } 1).wf = false ∧
    (Instr.controlOpen { me with last := 64 }).wf = false ∧ (Instr.closeSoft { me with src := 63 }).wf = false ∧
    (Instr.closeHard { me with src := 0 }).wf = false ∧ (Instr.status { me with src := 0 }).wf = false ∧
    (Instr.clearFaults { me with src := 0 } 0).wf = false := by decide
theorem test_wf_grant : (Instr.grant { aGrant 1 grantLine with put := 16 }).wf = false ∧
    (Instr.grant { aGrant 1 grantLine with count := 9 }).wf = false ∧
    (Instr.grant { aGrant 1 grantLine with lines := List.replicate 7 grantLine }).wf = false := by decide
theorem test_wf_mark : (Instr.mark me 0 [1]).wf = false ∧ (Instr.mark me 5 [1]).wf = false ∧
    (Instr.mark me 1 (List.replicate 12 0)).wf = false := by decide
theorem test_wf_bytes : (Instr.frameReceived (List.replicate 74 0)).wf = false := by decide
theorem test_wf_good : (Instr.grant (aGrant 1 grantLine)).wf = true ∧ (Instr.offer (anOffer 50 .infeed)).wf = true ∧
    (Instr.coldReset clear).wf = true ∧ (Instr.mark me 1 [5]).wf = true := by decide

/-! ### Start-up and the bytes of frames -/

/-- 11 section 11.3: the worked start-up. -/
theorem test_image : buildImage { clockDivisor := 0, prescale := 0, bitRate := 0 } .sample = some .sample := by decide
theorem test_image_unusable :
    buildImage { clockDivisor := 0, prescale := 0, bitRate := 0 } { ConfigMemory.sample with marker := 0 } = none := by decide
/-- State.reset is what a cold reset with empty sensors leaves. -/
theorem test_reset : exec (.coldReset clear) State.reset = .next State.reset := rfl
theorem test_warm_reset : exec (.warmReset clear) bench = .next State.reset := rfl
/-- The check value of the generator of R178 with initial value FFFFh, over the digits 1 to 9. -/
theorem test_crc : crc16 [0x31, 0x32, 0x33, 0x34, 0x35, 0x36, 0x37, 0x38, 0x39] = 0xAEE7#16 := by decide +kernel
/-- A BID of station 12 for tote 9 with score 3 and distance 4: rank, kind, range, length, payload (10 section 10.6). -/
theorem test_bid_body : Frame.body (sent (.bid 9) false).frame =
    [0xC0, 0x00, 0x7F, 0xDE, 0x62, 0x01, 0x3E, 0x04, 0x00, 0x00, 0x00, 0x09] := by decide
theorem test_bid_received : receiveBytes 200 (Frame.bytes (sent (.bid 9) false).frame) = .bid 12 3 4 9 := by decide +kernel
theorem test_short_frame : receiveBytes 200 [0xC0] = .badCheck := by decide

/-! ### One step of each command -/

/-- The state after a command. -/
def after (c : Instr) (s : State) : State :=
  match exec c s with
  | .next t => t
  | .fault f => nomatch f
  | .refused _ => s

theorem test_supplyFall : (after .supplyFall bench).power = { supplyOk := false, resetAsserted := false, coldPending := true } := by
  decide
theorem test_resetAssertion : (after .resetAssertion bench).live = false := by decide
theorem test_encoderPulse : (after .encoderPulse bench).tracker.phase = 38 := by decide
theorem test_advance : (after .advance bench).faults.sticky = 0x0010#16 := by decide
theorem test_homeMark : (after .homeMark State.reset).tracker.phase = 37 ∧ (after .homeMark State.reset).tracker.homed = true := by
  decide
theorem test_readerReport : (after (.readerReport (.tote 9)) bench).tracker.approach = [{ id := some 9, slot := 0, remaining := 4 }] := by
  decide
theorem test_divert : (after .divert
    { contesting .awaitingSlot with
      tracker := { bench.tracker with approach := [{ id := some 9, slot := 50, remaining := 0 }] } }).tracker.watch =
    [{ tote := 9, slot := 50, aged := 0 }] := by decide
theorem test_divertMiss : (after .divertMiss
    { contesting .diverting with tracker := { bench.tracker with watch := [{ tote := 9, slot := 50, aged := 2 }] } }).contests =
    [] := by decide
theorem test_lapseWindowClose : (after (.lapseWindowClose 9)
    { bench with contests := [{ record 9 .lastChance with window := 2 }] }).journal.entries.map (·.body) =
    [.claimEnd 9 .lapsed 3] := by decide
theorem test_laneEntry : (after .laneEntry
    { contesting .diverting with tracker := { bench.tracker with watch := [{ tote := 9, slot := 50, aged := 1 }] } }).floor.ports.map
    (·.state) = [.inbound, .vacant, .vacant] := by decide
theorem test_seat : (after (.seat 1) (atPort .inbound false (some (box none [])))).floor.ports.map (·.state) = [.releasing] := by
  decide
theorem test_seatSensorReport : ((after (.seatSensorReport 1 true) bench).floor.port 1).map (·.occupied) = some true := by decide
theorem test_seatTimeout : (after (.seatTimeout 1) (atPort .inbound false (some (box (some 9) [])))).floor.ports.map (·.state) =
    [.faulted] := by decide
theorem test_clearKey : (after (.clearKey 1) (atPort .faulted true (some (box (some 9) [])))).journal.entries.map (·.body) =
    [.released (some 9) (some .manual) 0 [8, 0, 0, 0]] := by decide
theorem test_portClear : (after (.portClear 1) (atPort .releasing true (some (box (some 9) [])))).floor.releaseLane =
    [some (box (some 9) [])] := by decide
theorem test_merge : (after .merge { bench with floor := { bench.floor with releaseLane := [some (box (some 9) [])] } }).queue.map
    (·.frame.payload) = [.offer 9 20 .release .ambient [{ sku := 7, qty := 8 }] 0] := by decide
theorem test_putSensorReport : (after (.putSensorReport 1 false) (putAt .opened true false)).puts.map (·.state) = [.suspended] := by
  decide
theorem test_confirmKey : (after (.confirmKey 1) (picking 4 3)).lines.map (·.state) = [.done, .active] := by decide
theorem test_shortKey : (after .shortKey (picking 5 3)).panel.task.map (·.display) = some 2 := by decide
theorem test_putFlashEnd : (after (.putFlashEnd 1)
    { bench with panel := { bench.panel with puts := [{ num := 1, light := .flashing 2 }] } }).panel.puts =
    [{ num := 1, light := .off }] := by decide
theorem test_secondTick : (after .secondTick (presenting (cold 9 2))).floor.allTotes.map (·.exposure) = [some 1] := by decide
theorem test_exposureSpent : (after (.exposureSpent 9) (presenting (cold 9 0))).floor.ports.map (·.state) = [.releasing] := by decide
theorem test_roundClose : (after (.roundClose 9)
    { bench with contests := [{ record 9 .bidSent with roundTimer := some 5 }] }).contests.map (·.state) = [.won] := by decide
theorem test_offer : (after (.offer (anOffer 50 .infeed)) { bench with lines := [line 1 .waiting] }).contests.map
    (fun c => (c.state, c.key)) = [(.bidQueued, { score := 88, dist := 154, addr := 12 })] := by decide
theorem test_bid : (after (.bid 11 4 4 9) (contesting .bidQueued)).contests = [] := by decide
theorem test_take : (after (.take 11 4 4 9 false) (contesting .awaitingSlot)).journal.entries.map (·.body) =
    [.claimEnd 9 .yielded 3] := by decide
theorem test_landed : (after (.landed 11 9) (contesting .bidSent)).contests = [] := by decide
theorem test_exit : (after (.exit 61 9) (contesting .diverting)).contests.length = 1 := by decide
theorem test_grant : (after (.grant (aGrant 1 grantLine)) bench).lines.map (fun l => (l.requested, l.due)) = [(255, 960)] := by decide
theorem test_cancel : (after (.cancel me 1) { bench with lines := [line 1 .waiting] }).journal.entries.map (·.body) =
    [.orderComplete 1 1 0 0 1] := by decide
theorem test_fetch : (after (.fetch me 1) { bench with journal := fullJournal }).journal.bound = false := by decide
theorem test_controlOpen : (after (.controlOpen me) State.reset).mode = .opened := by decide
theorem test_closeSoft : (after (.closeSoft me) bench).mode = .closed ∧
    (after (.closeSoft me) bench).queue.map (·.frame.payload) =
      [.reply (.modeAction .closeSoft .accepted .closed), .quiet .closed] := by decide
theorem test_closeHard : (after (.closeHard me) (contesting .awaitingSlot)).contests = [] := by decide
theorem test_status : (after (.status me) bench).queue.length = 1 := by decide
theorem test_clearFaults : (after (.clearFaults me 0x10) (after .advance bench)).faults = .empty := by decide
theorem test_mark : (after (.mark me 1 [5]) bench).journal.entries.map (·.body) = [.mark [5]] := by decide
theorem test_frameReceived :
    (after (.frameReceived (Frame.bytes { (sent (.bid 9) false).frame with src := 11, score := 4 })) (contesting .bidQueued)).contests =
    [] := by decide +kernel
theorem test_transmitStart : (after .transmitStart { bench with queue := [sent (.bid 9) false] }).queue = [sent (.bid 9) true] := by
  decide
theorem test_arbitrationLost : (after .arbitrationLost { bench with queue := [sent (.bid 9) true] }).queue = [sent (.bid 9) false] := by
  decide
theorem test_bidCarried : (after .bidCarried { contesting .bidQueued with queue := [sent (.bid 9) true] }).contests.map (·.state) =
    [.bidSent] := by decide
theorem test_takeCarried : (after .takeCarried
    { bench with contests := [{ record 9 .won with bound := [bound 1] }], lines := [line 1 .provisional],
                 queue := [sent (.take 9 false) true] }).lines.map (·.state) = [.reserved] := by decide
theorem test_frameCarried : (after .frameCarried { bench with queue := [sent (.landed 9) true] }).queue = [] := by decide

/-! ### States and operands that meet the hypotheses of the statements, clause by clause -/

theorem test_hyps_StepTakesFrontCommand : ({ bench with pending := [.merge] } : State).pending = .merge :: [] := rfl

/-- A round timer and a seat timer one millisecond past the next. -/
def timed : State :=
  { bench with
    contests := [{ record 9 .bidSent with roundTimer := some 2 }]
    floor := { Floor.vacant 0 with ports := [{ portAt .inbound false (some (box (some 8) [])) with seatTimer := some 2 }] } }

theorem test_hyps_EmptyQueue : bench.pending = [] ∧ asserted.pending = [] ∧ asserted.resetHeld = true ∧ unconfigured.pending = [] ∧
    unconfigured.resetHeld = false ∧ unconfigured.image = none := by decide
theorem test_hyps_EmptyQueue_quiet : timed.pending = [] ∧ timed.live = true ∧ (timed.ms + 1) % 1000 ≠ 0 ∧
    (∀ c ∈ timed.contests, ∀ d, c.roundTimer = some d → timed.ms + 1 < d) ∧
    (∀ q ∈ timed.floor.ports, ∀ d, q.seatTimer = some d → timed.ms + 1 < d) := by
  refine ⟨by decide, by decide, by decide, ?_, ?_⟩ <;>
    (intro c hc d hd; cases hc with
      | head => cases hd; decide
      | tail _ h => cases h)
theorem test_hyps_EmptyQueue_second : ({ bench with ms := 999 } : State).pending = [] ∧ ({ bench with ms := 999 } : State).live = true ∧
    (({ bench with ms := 999 } : State).ms + 1) % 1000 = 0 ∧ ({ bench with ms := 999 } : State).contests = [] ∧
    ({ bench with ms := 999 } : State).floor.heldTotes = [] ∧
    ∀ q ∈ ({ bench with ms := 999 } : State).floor.ports, q.seatTimer = none := by decide

theorem test_hyps_CommandsWait : resets .merge = false ∧ unconfigured.live = false ∧ Instr.merge ≠ .secondTick ∧
    resets .secondTick = false ∧ asserted.live = false ∧ asserted.resetHeld = true ∧ unconfigured.resetHeld = false ∧
    asserted.power.resetAsserted = true ∧ unpowered.power.supplyOk = false := by decide
theorem test_hyps_ColdPending :
    let s : State := { bench with power := { supplyOk := true, resetAsserted := true, coldPending := true } }
    s.power.supplyOk = true ∧ s.power.coldPending = true ∧ after (.coldReset clear) (after .supplyFall asserted) =
      { asserted with power := s.power } := by decide

/-- A bench with a first fault. -/
def faulty : State := after .advance bench

theorem test_hyps_Frame : (resets .merge = false ∧ tracks .merge = false ∧ Instr.merge ≠ .secondTick ∧ grants .merge = false ∧
    makesRecords .merge = false ∧ setsMode .merge = false ∧ fetches .merge = false ∧ clears .merge = false) ∧
    (∃ t, exec .merge faulty = .next t) ∧ maskHas faulty.faults.sticky .readFail = true ∧ ∃ f, faulty.faults.first = some f :=
  ⟨by decide, ⟨_, rfl⟩, by decide, ⟨_, rfl⟩⟩
/-- A command after which a contest record stands, and one that keeps the mode. -/
theorem test_hyps_Frame_records : (∃ t, exec .merge (contesting .won) = .next t ∧ ∃ x, x ∈ t.contests) :=
  ⟨_, rfl, record 9 .won, by decide⟩

theorem test_hyps_Slots : 0 < bench.cfg.loopLength := by decide

/-- A bench with two pulses to an advance. -/
def pulsing : State := { bench with image := some { Image.sample with prescale := 2 } }

theorem test_hyps_EncoderPulse : pulsing.live = true ∧ pulsing.tracker.prescale + 1 < pulsing.cfg.prescale ∧
    bench.live = true ∧ bench.cfg.prescale ≤ bench.tracker.prescale + 1 ∧ bench.tracker.prescale < bench.cfg.prescale := by decide
theorem test_hyps_EncoderPulse_others : (∃ t, exec .encoderPulse bench = .next t) ∧ (∃ t, exec .homeMark bench = .next t) ∧
    (∃ t, exec (.readerReport .empty) bench = .next t) ∧ ∃ t, exec .laneEntry bench = .next t :=
  ⟨⟨_, rfl⟩, ⟨_, rfl⟩, ⟨_, rfl⟩, ⟨_, rfl⟩⟩

/-- The bench with an approach queue. -/
def approaching (s : State) (id : Option ToteId) (remaining : Nat) : State :=
  { s with tracker := { s.tracker with approach := [{ id := id, slot := 50, remaining := remaining }] } }

theorem test_hyps_Advance : (approaching bench (some 9) 1).live = true ∧ (approaching bench (some 9) 1).tracker.readFlag = false ∧
    (approaching bench (some 9) 1).faults.first = none ∧
    ApproachOk bench.cfg.depth false (approaching bench (some 9) 1).tracker.approach :=
  ⟨by decide, by decide, by decide, by decide, by decide, by decide, (by
    rintro ⟨e, he, hd⟩
    cases he with
    | head => exact absurd hd (by decide)
    | tail _ h => cases h), by decide⟩

/-- The bench with `n` intervals and a previous advance. -/
def paced (n : Nat) (p : Option Nat) : State :=
  { bench with tracker := { bench.tracker with history := List.replicate n 700, prevAdvance := p } }

theorem test_hyps_Pitch : (paced 3 none).live = true ∧ (paced 3 none).tracker.prevAdvance = none ∧
    (paced 15 (some 0)).tracker.prevAdvance = some 0 ∧ (paced 15 (some 0)).tracker.history.length < 16 ∧
    (paced 16 (some 0)).tracker.prevAdvance = some 0 ∧ (paced 16 (some 0)).tracker.history.length = 16 := by decide
theorem test_hyps_Pitch_home : ∃ t, exec .homeMark (paced 16 none) = .next t := ⟨_, rfl⟩

/-- The bench one advance out of phase. -/
def slipped : State := { bench with tracker := { bench.tracker with phase := 36 } }

theorem test_hyps_HomeMark : (bench.live = true ∧ bench.tracker.homed = true ∧ bench.tracker.phase = bench.cfg.reader) ∧
    (State.reset.live = true ∧ State.reset.tracker.homed = false ∧ State.reset.contests = []) ∧
    slipped.live = true ∧ slipped.tracker.homed = true ∧ slipped.tracker.phase ≠ slipped.cfg.reader ∧ slipped.contests = [] := by
  decide

theorem test_hyps_ReaderReport : ({ bench with tracker := { bench.tracker with readFlag := true } } : State).tracker.readFlag = true ∧
    bench.live = true ∧ bench.tracker.readFlag = false ∧ (∃ e ∈ (approaching bench (some 9) 3).tracker.approach, e.id = some 9) ∧
    (approaching bench (some 9) 3).tracker.readFlag = false ∧ (∀ e ∈ (approaching bench (some 8) 3).tracker.approach, e.id ≠ some 9) ∧
    State.reset.live = true ∧ State.reset.tracker.homed = false ∧ State.reset.tracker.readFlag = false := by decide

/-- A roster entry of tote 9 whose round is over. -/
def entry9 : RosterEntry :=
  { tote := 9, cls := .ambient, comps := [{ sku := 7, qty := 5 }], exposure := 0, heard := 0, closeAt := 0, holder := none }

/-- The bench that has heard the tote, without and with a waiting line for it. -/
def heardOf (ls : List Line) : State := { bench with roster := [entry9], lines := ls }

/-- What the Scoring Unit is asked about that tote. -/
def asked (dist : Nat) (late : Bool) : BidQuery :=
  { cls := .ambient, comps := [{ sku := 7, qty := 5 }], exposure := 0, dist := dist, late := late }

theorem test_hyps_Marks : ((contesting .awaitingSlot).live = true ∧ (contesting .awaitingSlot).tracker.homed = true ∧
    (contesting .awaitingSlot).tracker.readFlag = false ∧ (∀ e ∈ (contesting .awaitingSlot).tracker.approach, e.id ≠ some 9) ∧
    (contesting .awaitingSlot).contestOf 9 = some (record 9 .awaitingSlot) ∧
    (contesting .lastChance).contestOf 9 = some (record 9 .lastChance)) ∧
    ((contesting .won).contestOf 9 = some (record 9 .won) ∧ (record 9 .won).state ≠ .awaitingSlot ∧ (record 9 .won).state ≠ .lastChance) ∧
    (presenting (box (some 9) [])).contestOf 9 = none ∧ (presenting (box (some 9) [])).toteStands 9 = true := by decide
theorem test_hyps_LateTake : ((heardOf []).live = true ∧ (heardOf []).tracker.homed = true ∧ (heardOf []).tracker.readFlag = false ∧
    (heardOf []).contestOf 9 = none ∧ (heardOf []).toteStands 9 = false ∧ (heardOf []).rosterOf 9 = some entry9 ∧
    entry9.holder = none ∧ entry9.closeAt ≤ (heardOf []).ms) ∧ ((heardOf []).bidForm (asked 4 true)).score = 0 ∧
    1 ≤ ((heardOf [line 1 .waiting]).bidForm (asked 4 true)).score := by decide

theorem test_hyps_Divert : ((approaching bench (some 9) 1).live = true ∧
    (approaching bench (some 9) 1).tracker.approach = [{ id := some 9, slot := 50, remaining := 1 }]) ∧
    ((approaching (contesting .awaitingSlot) (some 9) 0).tracker.homed = true ∧
      (approaching (contesting .awaitingSlot) (some 9) 0).contestOf 9 = some (record 9 .awaitingSlot)) ∧
    (approaching (contesting .lastChance) (some 9) 0).contestOf 9 = some (record 9 .lastChance) ∧
    (approaching State.reset (some 9) 0).tracker.homed = false ∧
    (approaching bench none 0).tracker.approach = [{ id := none, slot := 50, remaining := 0 }] := by decide
theorem test_hyps_Divert_unclaimed : ∃ t, ({ id := some 9, slot := 50, remaining := 0 } : ApproachEntry).id = some t ∧
    ∀ c, (approaching (contesting .won) (some 9) 0).contestOf t = some c → c.state ≠ .awaitingSlot ∧ c.state ≠ .lastChance :=
  ⟨9, rfl, fun c h => by cases h; decide⟩

/-- The bench with a divert awaiting its lane entry. -/
def watching (s : State) (aged : Nat) : State :=
  { s with tracker := { s.tracker with watch := [{ tote := 9, slot := 50, aged := aged }] } }

theorem test_hyps_LandingOrMiss : (watching bench 1).live = true ∧
    (watching bench 1).tracker.watch = [{ tote := 9, slot := 50, aged := 1 }] ∧ (watching bench 2).contestOf 9 = none ∧
    (watching (contesting .diverting) 2).tracker.watch = [{ tote := 9, slot := 50, aged := 2 }] ∧
    (watching (contesting .diverting) 2).contestOf 9 = some (record 9 .diverting) ∧ bench.tracker.watch = [] := by decide
theorem test_hyps_LandingOrMiss_other : ∀ c, (watching bench 2).contestOf 9 = some c → c.state ≠ .diverting :=
  fun _ h => nomatch h
theorem test_hyps_Miss_next : ∃ t, exec .divertMiss (watching (contesting .diverting) 2) = .next t := ⟨_, rfl⟩

theorem test_hyps_Offer : bench.live = true ∧ bench.cfg.loopLength ≤ (anOffer 200 .infeed).slot ∧
    ((anOffer 199 .infeed).slot < bench.cfg.loopLength ∧ (anOffer 199 .infeed).comps.length = 1 ∧
      (presenting (box (some 9) [])).toteStands 9 = true) ∧
    (bench.toteStands 9 = false ∧ bench.contestOf 9 = none ∧ (bench.bidForm (asked (bench.distance 50) false)).score = 0) ∧
    (heardOf [line 1 .waiting]).contestOf 9 = none ∧
    1 ≤ ((heardOf [line 1 .waiting]).bidForm (asked (bench.distance 50) false)).score := by decide
theorem test_hyps_Offer_records : ((contesting .diverting).toteStands 9 = false ∧
    (contesting .diverting).contestOf 9 = some (record 9 .diverting)) ∧
    ((contesting .awaitingSlot).contestOf 9 = some (record 9 .awaitingSlot) ∧ (anOffer 50 .relinquish).cause = .relinquish ∧
      (anOffer 50 .relinquish).src ≠ bench.cfg.address) ∧ (anOffer 50 .infeed).cause ≠ .relinquish ∧
    ({ anOffer 50 .relinquish with src := 12 } : OfferFrame).src = bench.cfg.address ∧
    (contesting .bidQueued).contestOf 9 = some (record 9 .bidQueued) := by decide

/-- A roster of 48 totes, 100 and up; the third oldest has no holder, or none has. -/
def crowded (holders : Bool) : List RosterEntry :=
  (List.range 48).map fun i =>
    { entry9 with
      tote := BitVec.ofNat 32 (100 + i)
      holder := if holders || i != 2 then some { score := 1, dist := 1, addr := 11 } else none }

theorem test_hyps_Roster : (∃ x ∈ [entry9], x.tote = entry9.tote) ∧ (∀ x ∈ crowded true, x.tote ≠ entry9.tote) ∧
    48 ≤ (crowded true).length ∧ (∀ x ∈ crowded true, x.holder ≠ none) ∧ (∀ x ∈ [{ entry9 with tote := 8 }], x.tote ≠ entry9.tote) ∧
    crowded false = (crowded false).take 2 ++ { entry9 with tote := 102 } :: (crowded false).drop 3 ∧
    (∀ x ∈ (crowded false).take 2, x.holder ≠ none) ∧ (∀ x ∈ crowded false, x.tote ≠ entry9.tote) := by decide +kernel

theorem test_hyps_Bid : bench.cfg.address = 12 ∧ bench.contestOf 9 = none ∧ (contesting .won).contestOf 9 = some (record 9 .won) ∧
    (contesting .bidSent).contestOf 9 = some (record 9 .bidSent) ∧ (contesting .bidQueued).contestOf 9 = some (record 9 .bidQueued) ∧
    Key.beats { score := 3, dist := 4, addr := 13 } (record 9 .bidQueued).key = false ∧
    Key.beats { score := 3, dist := 4, addr := 11 } (record 9 .bidQueued).key = true := by decide

theorem test_hyps_Take : (contesting .bidSent).contestOf 9 = some (record 9 .bidSent) ∧
    (contesting .won).contestOf 9 = some (record 9 .won) ∧ Key.beats { score := 3, dist := 3, addr := 13 } (record 9 .won).key = true ∧
    Key.beats { score := 3, dist := 5, addr := 11 } (record 9 .won).key = false ∧
    (contesting .diverting).contestOf 9 = some (record 9 .diverting) ∧ bench.contestOf 9 = none := by decide

theorem test_hyps_LandedAndExit : bench.live = true ∧ bench.contestOf 9 = none ∧
    (contesting .diverting).contestOf 9 = some (record 9 .diverting) ∧ (contesting .won).contestOf 9 = some (record 9 .won) ∧
    (contesting .lastChance).contestOf 9 = some (record 9 .lastChance) ∧ 11 ≠ bench.cfg.address := by decide

/-- A record whose round timer runs. -/
def inRound (st : ContestState) (best : Option Key) : State :=
  { bench with contests := [{ record 9 st with roundTimer := some 5, bestOther := best }] }

theorem test_hyps_RoundClose : bench.contestOf 9 = none ∧ ((contesting .won).contestOf 9).map (·.roundTimer) = some none ∧
    ((inRound .bidSent none).contestOf 9 = some { record 9 .bidSent with roundTimer := some 5 } ∧ (inRound .bidSent none).tracker.homed = true ∧
      (inRound .bidSent none).mode = .opened ∧ (inRound .bidSent none).journal.bound = false) ∧
    ((inRound .bidSent (some { score := 4, dist := 9, addr := 60 })).contestOf 9).isSome = true ∧
    Key.beats { score := 4, dist := 9, addr := 60 } (record 9 .bidSent).key = true ∧
    ({ inRound .bidSent none with mode := .closingSoft } : State).mode ≠ .opened ∧
    ((inRound .bidQueued none).contestOf 9).isSome = true := by decide

theorem test_hyps_Ending : ContestOutcome.yielded ≠ .landed ∧ ContestOutcome.yielded ≠ .relinquished ∧
    (contesting .awaitingSlot).floor.presentation = [] ∧ (contesting .awaitingSlot).mode.closing = false ∧
    (contesting .awaitingSlot).queue.length < Config.queueCapacity ∧ (record 9 .awaitingSlot).state = .awaitingSlot := by decide

/-- A record for the slot that the next advance announces. -/
def passing (st : ContestState) (window : Nat) (mark : Bool) : State :=
  { bench with contests := [{ record 9 st with slot := 199, window := window, readMark := mark }] }

theorem test_hyps_SlotPassage : ((passing .awaitingSlot 0 false).live = true ∧ (passing .awaitingSlot 0 false).tracker.homed = true ∧
    (passing .awaitingSlot 0 false).tracker.approach = [] ∧ (passing .awaitingSlot 0 false).tracker.watch = [] ∧
    ((passing .awaitingSlot 0 false).contests.map (·.tote)).Nodup ∧
    subMod bench.cfg.loopLength bench.cfg.reader ((bench.tracker.phase + 1) % bench.cfg.loopLength) = 199) ∧
    (record 9 .awaitingSlot).slot ≠ 199 ∧ ((passing .lastChance 0 false).contests.map (·.window)) = [0] ∧
    ((passing .lastChance 1 false).contests.map fun c => (c.window, c.readMark)) = [(1, false)] ∧
    ((passing .lastChance 1 true).contests.map fun c => (c.window, c.readMark)) = [(1, true)] := by decide
theorem test_hyps_Lapse : bench.contestOf 9 = none ∧
    ((passing .lastChance 2 false).contestOf 9).map (fun c => (c.state, c.window, c.readMark)) = some (.lastChance, 2, false) ∧
    ((passing .lastChance 1 false).contestOf 9).map (·.window) = some 1 := by decide

/-- A record whose own frame is in carriage. -/
def carrying (c : Contest) (p : Payload) : State := { bench with contests := [c], queue := [sent p true] }

theorem test_hyps_Carried : ((carrying (record 9 .bidQueued) (.bid 9)).live = true ∧
    (carrying (record 9 .bidQueued) (.bid 9)).carried = some (sent (.bid 9) true) ∧ (sent (.bid 9) true).ownerEnded = false ∧
    (carrying (record 9 .bidQueued) (.bid 9)).contestOf 9 = some (record 9 .bidQueued)) ∧
    (carrying (record 9 .won) (.bid 9)).contestOf 9 = some (record 9 .won) ∧
    ((carrying { record 9 .won with bound := [bound 1] } (.take 9 false)).contestOf 9 = some { record 9 .won with bound := [bound 1] } ∧
      (carrying { record 9 .won with bound := [bound 1] } (.take 9 false)).mode ≠ .closingHard) ∧
    (carrying (record 9 .bidSent) (.take 9 false)).contestOf 9 = some (record 9 .bidSent) ∧
    (carrying (record 9 .won) (.take 9 false)).contestOf 9 = some (record 9 .won) ∧ (record 9 .won).bound = [] ∧
    bench.carried = none := by decide
theorem test_hyps_Carried_next : ∃ u, exec .takeCarried (carrying (record 9 .won) (.take 9 false)) = .next u := ⟨_, rfl⟩
theorem test_hyps_OtherCarried : ({ bench with queue := [sent (.landed 9) true] } : State).carried = some (sent (.landed 9) true) ∧
    (∀ t, (sent (.landed 9) true).frame.payload ≠ .bid t) ∧ ∀ t late, (sent (.landed 9) true).frame.payload ≠ .take t late :=
  ⟨by decide, fun _ h => (nomatch h), fun _ _ h => (nomatch h)⟩
/-- A frame whose record has ended, while another record is WON with its TAKE queued; and that record with its TAKE dropped. -/
def outlived (p : Payload) : State :=
  { bench with contests := [record 8 .won], queue := [{ sent p true with ownerEnded := true }, sent (.take 8 false) false] }
def dropped : State := { bench with contests := [record 8 .won] }
theorem test_hyps_Carried_ended : (outlived (.bid 9)).live = true ∧
    (outlived (.bid 9)).carried = some { sent (.bid 9) true with ownerEnded := true } ∧
    (outlived (.take 9 true)).carried = some { sent (.take 9 true) true with ownerEnded := true } ∧
    (∀ x ∈ (outlived (.bid 9)).contests, x.state = .won → ∃ f ∈ (outlived (.bid 9)).queue, f.inCarriage = false ∧ f.ownerEnded = false ∧
      (f.frame.payload = .take x.tote true ∨ f.frame.payload = .take x.tote false)) ∧
    (after .bidCarried (outlived (.bid 9))).contests = [record 8 .won] := by decide
theorem test_hyps_Requeue : dropped.contestOf 8 = some (record 8 .won) ∧ dropped.contestOf 9 = none ∧
    (¬∃ f ∈ dropped.queue, f.ownerEnded = false ∧ (f.frame.payload = .take 8 true ∨ f.frame.payload = .take 8 false)) ∧
    (dropped.tracker.homed = true ∧ dropped.mode = .opened ∧ dropped.journal.bound = false) ∧
    ({ dropped with mode := .closingSoft } : State).mode ≠ .opened ∧ (dropped.requeueTake 8).queue.length = 1 ∧
    ∃ f ∈ (outlived (.bid 9)).queue, f.ownerEnded = false ∧ f.frame.payload = .take 8 false := by decide

theorem test_hyps_KeyOrder : Key.beats { score := 5, dist := 1, addr := 9 } { score := 5, dist := 2, addr := 1 } = true ∧
    Key.beats { score := 5, dist := 2, addr := 1 } { score := 5, dist := 2, addr := 2 } = true := by decide
theorem test_hyps_Urgency : (31 : Int) ≤ 31 - (0 : Nat) ∧ (-31 : Int) - (0 : Nat) ≤ -31 ∧ (5 : Int) = (5 : Nat) := by decide

theorem test_hyps_Allocation : ((bench.compute .ambient [7] [5] (some 0)).listed = []) ∧
    ({ bench with lines := [line 1 .waiting] } : State).compute .ambient [7] [5] (some 16) =
      { avail := [1], weight := 88, time := 16, listed := [{ bound 1 with units := 4 }] } ∧
    (({ bench with lines := [line 1 .waiting] } : State).compute .ambient [7] [5] (some 15)).listed = [] := by decide
theorem test_hyps_Eligibility : State.reset.eligible .ambient 50 false = false ∧ bench.eligible .ambient 2 false = true ∧
    bench.eligible .ambient 1 false = false ∧ bench.eligible .ambient 0 true = true ∧ bench.eligible .frozen 50 false = false := by
  decide

/-- The bench with one tote in the lane, and with a port that waits for room. -/
def laned : State := { bench with floor := { bench.floor with lane := [box (some 9) []] } }
def waiting : State := { atPort .releaseWait true (some (box (some 9) [])) with
  floor := { (atPort .releaseWait true (some (box (some 9) []))).floor with releaseWait := [1] } }

theorem test_hyps_Routing : laned.floor.portNums.Nodup ∧ laned.floor.lane = [box (some 9) []] ∧
    (laned.floor.ports.find? (fun y => y.state == .vacant && !y.occupied)).map (·.num) = some 1 := by decide
theorem test_hyps_Granting : waiting.floor.releaseWait = [1] ∧
    waiting.floor.port 1 = some (portAt .releaseWait true (some (box (some 9) []))) ∧
    waiting.floor.releaseLane.length + (waiting.floor.ports.filter fun y => y.state == .releasing).length < 2 := by decide

theorem test_hyps_Seat : (atPort .inbound false (some (box (some 9) [bound 1]))).live = true ∧
    (atPort .inbound false (some (box (some 9) [bound 1]))).floor.port 1 = some (portAt .inbound false (some (box (some 9) [bound 1]))) ∧
    (box (some 9) [bound 1]).bound ≠ [] ∧ (box (some 9) [bound 1]).spent = false ∧
    (atPort .inbound false (some (box (some 9) [bound 1]))).mode ≠ .closingHard := by decide

theorem test_hyps_Pass : (presenting (box (some 9) [])).floor.presentedTote 1 = some (box (some 9) []) ∧ (box (some 9) []).spent = false ∧
    (presenting (box (some 9) [])).mode ≠ .closingHard ∧ ((presenting (box (some 9) [])).benchForm (box (some 9) [])).listed = [] ∧
    (({ presenting (box (some 9) []) with lines := [line 1 .waiting] } : State).benchForm (box (some 9) [])).listed ≠ [] := by decide

/-- An orphan and a CHILLED tote scored; and a line listed before and after those a list holds. -/
theorem test_hyps_BenchForm : ({ box none [] with cls := none } : Tote).cls = none ∧ (cold 9 20).cls = some .chilled ∧
    ((({ bench with lines := [{ line 1 .waiting with cls := .chilled }] } : State).benchForm (cold 9 20)).listed.map (·.units)) = [4] := by
  decide
theorem test_hyps_Merge_order :
    let s : State := { bench with lines := [line 1 .reserved, line 2 .reserved, line 3 .reserved] }
    (∀ b ∈ [bound 3, bound 1] ++ [bound 2], (s.lineOf b).isSome = true) ∧ [bound 2].Pairwise (fun _ _ => False) ∧
    s.mergeBound [bound 3, bound 1] [bound 2] = [bound 1, bound 2, bound 3] := by decide

/-- A tote with one RESERVED line at port 1. -/
def reserving : State := { presenting (box (some 9) [bound 1]) with lines := [line 1 .reserved] }

theorem test_hyps_ReleaseTest_lit : (picking 5 3).floor.presentedTote 1 = some (box (some 9) [bound 1, bound 2]) ∧
    ∃ b ∈ (box (some 9) [bound 1, bound 2]).bound, ∃ l, (picking 5 3).lineOf b = some l ∧ l.state = .active :=
  ⟨by decide, bound 1, by decide, { line 1 .active with requested := 5 }, by decide, rfl⟩
theorem test_hyps_ReleaseTest : (presenting (box none [])).floor.presentedTote 1 = some (box none []) ∧
    (presenting (cold 9 0)).floor.presentedTote 1 = some (cold 9 0) ∧ (cold 9 0).spent = true ∧ (cold 9 1).spent = false ∧
    ({ presenting (cold 9 1) with mode := .closingHard } : State).floor.presentedTote 1 = some (cold 9 1) ∧
    reserving.floor.presentedTote 1 = some (box (some 9) [bound 1]) ∧ (box (some 9) [bound 1]).bound ≠ [] ∧
    (box (some 9) []).bound = [] := by decide
theorem test_hyps_ReleaseTest_unlit :
    ¬(∃ b ∈ (box (some 9) [bound 1]).bound, ∃ l, reserving.lineOf b = some l ∧ l.state = .active) ∧
    ¬∃ b ∈ (cold 9 0).bound, ∃ l, (presenting (cold 9 0)).lineOf b = some l ∧ l.state = .active := by
  refine ⟨?_, fun ⟨b, hb, _⟩ => nomatch hb⟩
  rintro ⟨b, hb, l, hl, hs⟩
  cases hb with
  | head => cases hl; cases hs
  | tail _ h => cases h

theorem test_hyps_SeatReports : (bench.floor.port 1).map (fun q => (q.state, q.occupied)) = some (.vacant, false) ∧
    (atPort .vacant true none).floor.port 1 = some (portAt .vacant true none) ∧
    (atPort .presented true (some (box (some 9) []))).floor.port 1 = some (portAt .presented true (some (box (some 9) []))) ∧
    (atPort .inbound true (some (box (some 9) []))).floor.port 1 = some (portAt .inbound true (some (box (some 9) []))) ∧
    (atPort .releasing false (some (box (some 9) []))).floor.port 1 = some (portAt .releasing false (some (box (some 9) []))) ∧
    (atPort .faulted true (some (box (some 9) []))).live = true := by decide
theorem test_hyps_TimeoutClearClear : (bench.floor.port 1).map (·.state) ≠ some .inbound ∧
    (atPort .inbound false (some (box (some 9) [bound 1]))).floor.port 1 = some (portAt .inbound false (some (box (some 9) [bound 1]))) ∧
    (atPort .faulted true (some (box (some 9) []))).floor.port 1 = some (portAt .faulted true (some (box (some 9) []))) ∧
    (atPort .releasing true (some (box (some 9) []))).floor.port 1 = some (portAt .releasing true (some (box (some 9) []))) := by decide

/-- The bench with a head on the release lane. -/
def merging (head : Option Tote) : State := { bench with floor := { bench.floor with releaseLane := [head] } }

theorem test_hyps_Merge : bench.floor.releaseLane = [] ∧ (merging none).floor.releaseLane = [none] ∧
    (merging none).floor.releaseWait = [] ∧ (merging none).mode.closing = false ∧
    (merging (some (box none []))).floor.releaseLane = [some (box none [])] ∧ (box none []).id = none ∧
    (merging (some (cold 9 6))).floor.releaseLane = [some (cold 9 6)] ∧ (cold 9 6).cls = some .chilled := by decide

theorem test_hyps_PutSensor : (putAt .opened true false).live = true ∧ ((putAt .opened true false).put 1).isSome = true ∧
    (putAt .opened true false).panel.task.any (fun t => t.put == 1) = false ∧
    ((putAt .suspended false false).put 1).map (fun q => (q.state, q.occupied)) = some (.suspended, false) ∧
    ((putAt .complete true false).put 1).map (fun q => (q.state, q.occupied)) = some (.complete, true) ∧
    ((putAt .complete false true).put 1).map (fun q => (q.state, q.occupied, q.emptied)) = some (.complete, false, true) ∧
    ((putAt .free false false).put 1).map (fun q => (q.state, q.occupied)) = some (.free, false) := by decide

/-- A tote with a taskable line. -/
def taskful : State := { picking 5 3 with panel := bench.panel }

theorem test_hyps_TaskChoice : (picking 5 3).panel.task ≠ none ∧ bench.chosenTote = none ∧
    (taskful.panel.task = none ∧ taskful.mode = .opened ∧ taskful.journal.bound = false ∧ taskful.image ≠ none ∧
      taskful.chosenTote = some (1, box (some 9) [bound 1, bound 2]) ∧
      (box (some 9) [bound 1, bound 2]).bound.find? (taskful.taskable (box (some 9) [bound 1, bound 2])) = some (bound 2) ∧
      taskful.lineOf (bound 2) = some (line 2 .reserved)) := by decide
/-- Two presented totes, the second within its exposure warning. -/
theorem test_hyps_TaskChoice_warned :
    let warm : Tote := box (some 9) [bound 1]
    let late : Tote := { cold 8 120 with bound := [bound 2] }
    let s : State :=
      { taskful with
        lines := [line 1 .reserved, line 2 .reserved]
        floor :=
          { Floor.vacant 0 with
            ports := [portAt .presented true (some warm), { portAt .presented true (some late) with num := 2 }]
            presentation := [1, 2] } }
    s.chosenTote = some (2, late) ∧ s.hasTaskable warm = true ∧ s.warned late = true ∧ s.warned warm = false := by decide

/-- Two totes of equal exposure within the warning: the earlier is chosen. -/
theorem test_hyps_TaskChoice_tie :
    let warm (t : ToteId) (n : Byte) : Tote := { cold t 100 with bound := [bound n] }
    let s : State :=
      { taskful with
        lines := [line 1 .reserved, line 2 .reserved]
        floor :=
          { Floor.vacant 0 with
            ports := [portAt .presented true (some (warm 9 1)), { portAt .presented true (some (warm 8 2)) with num := 2 }]
            presentation := [2, 1] } }
    s.chosenTote = some (2, warm 8 2) ∧ s.warned (warm 8 2) = true ∧ s.warned (warm 9 1) = true := by decide

theorem test_hyps_ShortKey : bench.panel.task = none ∧ (picking 5 0).panel.task = some (task 0) ∧ (picking 5 0).live = true := by decide
theorem test_hyps_WrongPut : ∀ t, (picking 5 3).panel.task = some t → t.put ≠ 2 := by
  intro t h; cases h; decide

theorem test_hyps_FullPick : ((picking 4 3).live = true ∧ (picking 4 3).panel.task = some (task 3) ∧ (task 3).display = (task 3).units) ∧
    ((∀ y ∈ (picking 4 3).lines, y.order = 1 → y.lineNo = 1 → y = { line 1 .active with requested := 4 }) ∧
      { line 1 .active with requested := 4 } ∈ (picking 4 3).lines ∧ (line 1 .active).cancelPending = false ∧
      (line 1 .active).picked + (task 3).display = 4) ∧
    (∃ y ∈ (picking 4 3).lines, y.order = 1 ∧ y.lineNo ≠ 1 ∧ y.state ≠ .done ∧ y.state ≠ .cancelled) ∧
    (picking 4 3).floor.presentedTote 1 = some (box (some 9) [bound 1, bound 2]) ∧ (box (some 9) [bound 1, bound 2]).spent = false ∧
    ∃ b ∈ (box (some 9) [bound 1, bound 2]).bound, ¬(b.order = 1 ∧ b.lineNo = 1) := by decide
theorem test_hyps_Short : (picking 5 2).panel.task = some (task 2) ∧ (task 2).display < (task 2).units ∧
    (line 1 .active).picked + (task 2).display ≠ (line 1 .active).requested ∧
    (picking 5 2).floor.allTotes.find? (·.isId 9) = some (box (some 9) [bound 1, bound 2]) ∧
    (box (some 9) [bound 1, bound 2]).comps[(task 2).comp - 1]? = some { sku := 7, qty := 8, emptied := false } ∧
    ∀ y ∈ (picking 5 2).lines, y.order = 1 → y.lineNo = 1 → y = line 1 .active := by decide

theorem test_hyps_SecondTick : (presenting (cold 9 2)).live = true ∧
    (∀ x ∈ (presenting (cold 9 2)).floor.heldTotes, x.countDown.spent = false ∨ x.spentTaken = true) := by decide
theorem test_hyps_SecondTick_minute : (∃ t, exec .secondTick { bench with ms := 59999 } = .next t ∧ t.now % 60 = 0) ∧
    ∃ t, exec .secondTick { bench with ms := 58000 } = .next t ∧ t.now % 60 ≠ 0 :=
  ⟨⟨_, rfl, by decide⟩, _, rfl, by decide⟩

theorem test_hyps_ExposureSpent : bench.floor.heldTotes.find? (·.isId 9) = none ∧
    (presenting (cold 9 1)).floor.heldTotes.find? (·.isId 9) = some (cold 9 1) ∧ (cold 9 1).spent = false ∧
    ((presenting (cold 9 0)).floor.heldTotes.find? (·.isId 9) = some (cold 9 0) ∧ (cold 9 0).spent = true ∧
      (cold 9 0).spentTaken = false ∧ (presenting (cold 9 0)).floor.portOfTote 9 = some 1) ∧
    ({ bench with floor := { bench.floor with lane := [cold 9 0] } } : State).floor.portOfTote 9 = none := by decide

/-! GRANT: for each test a grant that it is the first to refuse. -/

theorem test_hyps_Grant_malformed : (aGrant 1 { grantLine with lineNo := 0 }).lines = [{ grantLine with lineNo := 0 }] ∧
    bench.grantRefusal (aGrant 1 { grantLine with lineNo := 0 }) = some .malformed := by decide
theorem test_hyps_Grant_order :
    bench.grantRefusal (aGrant 9 grantLine) = some .putRange ∧ (putAt .suspended true false).grantRefusal (aGrant 1 grantLine) = some .putBusy ∧
    (putAt .free true false).grantRefusal (aGrant 1 { grantLine with cls := some .frozen }) = some .classNotServed ∧
    ({ bench with lines := [line 4 .done] } : State).grantRefusal (aGrant 1 grantLine) = some .duplicateLine ∧
    ({ bench with lines := List.replicate 32 (line 1 .done) } : State).grantRefusal (aGrant 1 grantLine) = some .orderTooLong ∧
    ({ bench with lines := List.replicate 96 { line 1 .done with order := 2 } } : State).grantRefusal (aGrant 1 grantLine) =
      some .tableFull ∧
    State.reset.grantRefusal (aGrant 1 grantLine) = some .benchClosed ∧
    ({ bench with journal := fullJournal } : State).grantRefusal (aGrant 1 grantLine) = some .journalBound ∧
    bench.grantRefusal (aGrant 1 grantLine) = none := by decide +kernel
/-- The conditions themselves, for the grants above: each holds with the earlier ones false. -/
theorem test_hyps_Grant_conditions :
    let malformed (g : GrantFrame) := g.count ≠ g.lines.length ∨ g.dest.first ≠ g.dest.last ∨ g.order = 0 ∨
      ∃ l ∈ g.lines, l.lineNo = 0 ∨ l.sku = 0 ∨ l.cls = none
    let outOfRange (g : GrantFrame) := g.put = 0 ∨ bench.cfg.puts < g.put
    let busy (s : State) (g : GrantFrame) := (∀ q ∈ s.put g.put, ¬(q.state = .free ∨ q.state = .opened ∧ q.order = some g.order)) ∨
      ∃ l ∈ s.lines, l.order = g.order ∧ l.put ≠ g.put
    malformed (aGrant 1 { grantLine with lineNo := 0 }) ∧ ¬malformed (aGrant 9 grantLine) ∧ outOfRange (aGrant 9 grantLine) ∧
    ¬malformed (aGrant 1 grantLine) ∧ ¬outOfRange (aGrant 1 grantLine) ∧ busy (putAt .suspended true false) (aGrant 1 grantLine) ∧
    ¬busy bench (aGrant 1 grantLine) ∧ (∃ c ∈ (some .frozen : Option TempClass), bench.cfg.served.has c = false) ∧
    ¬∃ c ∈ grantLine.cls, bench.cfg.served.has c = false := by decide
theorem test_hyps_Grant_refused : bench.live = true ∧ (aGrant 9 grantLine).dest.first ≤ bench.cfg.address ∧
    bench.cfg.address ≤ (aGrant 9 grantLine).dest.last ∧ ∃ t, exec (.grant (aGrant 9 grantLine)) bench = .next t :=
  ⟨by decide, by decide, by decide, _, rfl⟩

theorem test_hyps_Addressed : bench.cfg.address < other.first ∧ me.first = bench.cfg.address ∧ me.last = bench.cfg.address ∧
    everyone.first ≤ bench.cfg.address ∧ bench.cfg.address ≤ everyone.last ∧ everyone.first ≠ everyone.last ∧
    ({ me with first := 1, last := 11 } : Dest).last < bench.cfg.address := by decide

theorem test_hyps_Cancel : (∀ l ∈ bench.lines, l.order ≠ 1) ∧
    (({ bench with lines := [line 1 .waiting] } : State).lines.filter fun l => l.order == 1) = [line 1 .waiting] ∧
    (∀ y ∈ [line 1 .waiting], y.state = .waiting) ∧ (∀ c ∈ bench.contests, ∀ b ∈ c.bound, b.order ≠ 1) ∧
    (∀ x ∈ bench.floor.allTotes, ∀ b ∈ x.bound, b.order ≠ 1) := by decide
theorem test_hyps_Cancel_lit :
    let s : State := { picking 5 3 with
      lines := [line 1 .active], floor := (presenting (box (some 9) [bound 1])).floor }
    (s.lines.filter fun l => l.order == 1) = [line 1 .active] ∧ (∀ c ∈ s.contests, ∀ b ∈ c.bound, b.order = 1 → b.lineNo = 1) ∧
    ∀ x ∈ s.floor.allTotes, ∀ b ∈ x.bound, b.order = 1 → b.lineNo = 1 := by decide

theorem test_hyps_Modes : (bench.mode = .opened ∧ bench.live = true) ∧ (State.reset.mode ≠ .opened ∧ State.reset.live = true) ∧
    State.reset.mode = .closed ∧ ({ bench with mode := .closingSoft } : State).mode = .closingSoft ∧
    ({ bench with mode := .closingHard } : State).live = true := by decide
theorem test_hyps_CloseEntered : (bench.mode = .opened ∧ (presenting (cold 9 2)).contests = [] ∧
    (presenting (cold 9 2)).floor.heldTotes ≠ [] ∧ (presenting (cold 9 2)).mode = .opened) ∧
    ((contesting .bidSent).contests.map (·.tote)).Nodup ∧ record 9 .bidSent ∈ (contesting .bidSent).contests ∧
    record 9 .diverting ∈ (contesting .diverting).contests := by decide
theorem test_hyps_Completion :
    let s : State := { bench with mode := .closingSoft, requester := some 60 }
    bench.mode = .opened ∧ s.mode = .closingSoft ∧ s.closeEntry = false ∧ s.floor.heldTotes = [] ∧ s.contests = [] ∧
    s.floor.releaseLane = [] ∧ s.requester = some 60 := by decide

theorem test_hyps_Mark : (1 : Nat) ≠ ([] : List Word).length ∧ (1 : Nat) = [(5 : Word)].length ∧ fullJournal.bound = true ∧
    bench.journal.bound = false ∧ (bench.journal.entryAt bench.now (.mark [5])).size + 192 ≤ bench.journal.free ∧
    fullJournal.free < (fullJournal.entryAt 0 (.mark [5])).size + 192 := by decide +kernel
theorem test_hyps_Faults : bench.faults.first = none ∧ (faulty.faults.first).map (·.kind) = some .readFail ∧
    maskHas 0x10#16 .readFail = true ∧ maskHas 0x8#16 .readFail = false := by decide
theorem test_hyps_Entry : (EntryBody.claimEnd 9 .lapsed 3).isNote = false ∧ (EntryBody.mark [5]).isNote = true ∧
    (bench.journal.entryAt 0 (.mark [5])).size + 192 ≤ 2048 - (bench.journal.entries.map Entry.size).sum ∧
    2048 - (fullJournal.entries.map Entry.size).sum < (fullJournal.entryAt 0 (.mark [5])).size + 192 := by decide +kernel

/-- The bytes of a frame with class, kind, source 60, range and payload. -/
def spelled (cls kind : Nat) (d : Dest) (pay : List Byte) : List Byte :=
  let body := headerBytes (rankNumber cls 0 0 60) kind d.first d.last pay.length ++ pay
  body ++ beBytes 2 (crc16 body).toNat

theorem test_hyps_Bytes_contest :
    receiveBytes 200 (spelled 5 1 everyone [0, 0, 0, 9, 0, 50, 0x50, 0, 0, 0, 0, 7, 5]) = .offer (anOffer 50 .infeed) ∧
    receiveBytes 200 (spelled 6 2 everyone [0, 0, 0, 9]) = .bid 60 0 0 9 ∧
    receiveBytes 200 (spelled 7 3 everyone [0, 0, 0, 9, 1]) = .take 60 0 0 9 true ∧
    receiveBytes 200 (spelled 4 4 everyone [0, 0, 0, 9]) = .landed 60 9 ∧
    receiveBytes 200 (spelled 4 5 everyone [0, 0, 0, 9]) = .exit 60 9 ∧
    receiveBytes 200 (spelled 2 11 me [0]) = .nothing ∧
    receiveBytes 200 (spelled 5 1 everyone [0, 0, 0, 9, 0, 200, 0x50, 0, 0, 0, 0, 7, 5]) = .badForm := by decide +kernel
theorem test_hyps_Bytes_orders :
    receiveBytes 200 (spelled 3 6 me [0, 0, 1, 0x10, 4, 0, 0, 7, 255, 0x43, 0xC1]) = .grant (aGrant 1 grantLine) ∧
    receiveBytes 200 (spelled 3 7 me [0, 0, 1]) = .cancel me 1 ∧ receiveBytes 200 (spelled 3 8 me [255]) = .fetch me 255 := by
  decide +kernel
theorem test_hyps_Bytes_control : receiveBytes 200 (spelled 3 9 me [1]) = .modeAction .opened me ∧
    receiveBytes 200 (spelled 3 9 me [2]) = .modeAction .closeSoft me ∧
    receiveBytes 200 (spelled 3 9 me [3]) = .modeAction .closeHard me ∧ receiveBytes 200 (spelled 3 9 me [4]) = .status me ∧
    receiveBytes 200 (spelled 3 9 me [5, 0, 16]) = .clearFaults me 16 ∧
    receiveBytes 200 (spelled 3 9 me [6, 0, 0, 0, 0, 5]) = .mark me 1 [5] := by decide +kernel

theorem test_hyps_SentOffer : (anOffer 199 .infeed).slot < 200 ∧ 1 ≤ (anOffer 199 .infeed).src ∧ (anOffer 199 .infeed).src ≤ 62 ∧
    (anOffer 199 .infeed).exposureField ≤ 4095 ∧ (anOffer 199 .infeed).comps.length = 1 := by decide

/-- A queue of 12 BIDs, the last not in carriage, and one wholly in carriage. -/
def fullQueue (carried : Bool) : List TxEntry := List.replicate 12 (sent (.bid 9) carried)

theorem test_hyps_Overflow : bench.queue.length < 12 ∧ bench.queue.Pairwise (fun a b => b.frame.rank ≤ a.frame.rank) ∧
    12 ≤ (fullQueue false).length ∧ fullQueue false = List.replicate 11 (sent (.bid 9) false) ++ sent (.bid 9) false :: [] ∧
    (sent (.landed 9) false).frame.rank ≤ (sent (.bid 9) false).frame.rank ∧
    (sent (.bid 9) false).frame.rank < (sent (.take 9 false) false).frame.rank ∧
    ∀ x ∈ fullQueue true, x.inCarriage = true := by decide
theorem test_hyps_Carriage : bench.queue = [] ∧ (∃ e ∈ [sent (.bid 9) true], e.inCarriage = true) ∧
    ∀ x ∈ [sent (.bid 9) false], x.inCarriage = false := by decide

theorem test_hyps_Resets : bench.power.supplyOk = true ∧ bench.power.resetAsserted = false ∧ bench.power.coldPending = false ∧
    (buildImage bench.straps bench.memory).isSome = true := by decide
theorem test_hyps_WarmReset : ∃ t, exec (.warmReset clear) bench = .next t ∧ 5 * t.floor.heldCount ≤ bench.journal.free :=
  ⟨_, rfl, by decide⟩

/-- Warm resets that must make room: two orphans and a journal with 4 words free, and an unusable image. -/
def crammed (marker : BitVec 16) : State :=
  { bench with
    memory := { ConfigMemory.sample with marker := marker }
    journal :=
      { entries :=
          [{ time := 0, delta := none, body := .mark [1] }, { time := 0, delta := some 0, body := .mark [1, 2] },
           { time := 0, delta := some 0, body := .mark (List.replicate 2037 0) }]
        oldest := 5, lastTime := some 0, bound := true } }
def pair : Sensors := { clear with seats := [true, true, false, false] }

theorem test_hyps_WarmReset_room : (crammed 0x5A3C).power.supplyOk = true ∧ (crammed 0x5A3C).power.coldPending = false ∧
    (buildImage (crammed 0x5A3C).straps (crammed 0x5A3C).memory).isSome = true ∧
    (after (.warmReset pair) (crammed 0x5A3C)).floor.heldCount = 2 ∧ (crammed 0x5A3C).journal.free = 4 ∧
    (after (.warmReset pair) (crammed 0x5A3C)).journal.entries.length = 1 ∧
    (after (.warmReset pair) (crammed 0x5A3C)).journal.oldest = 7 := by decide +kernel
theorem test_hyps_WarmReset_unconfigured : buildImage (crammed 0).straps (crammed 0).memory = none ∧
    (after (.warmReset pair) (crammed 0)).journal = { (crammed 0).journal with lastTime := none } := by decide +kernel
theorem test_hyps_WarmReset_next : (∃ t, exec (.warmReset pair) (crammed 0x5A3C) = .next t) ∧
    ∃ t, exec (.warmReset pair) (crammed 0) = .next t := ⟨⟨_, rfl⟩, _, rfl⟩

theorem test_hyps_Floor : FloorOk (picking 5 3).floor ∧ FloorOk bench.floor :=
  ⟨⟨by decide, by decide, by decide, by decide, by decide⟩, by decide, by decide, by decide, by decide, by decide⟩

theorem test_hyps_Invariant : Inv bench ∧ ∃ t, step bench = .next t := by
  refine ⟨⟨by unfold JournalOk; decide, ⟨by decide, by decide, by decide⟩, ⟨by decide, by decide⟩, ⟨by decide, by decide⟩,
    ⟨by decide, by decide, by decide⟩, test_hyps_Floor.2, by unfold ImageOk; decide,
    ⟨by decide, by decide, by decide, by decide, ?_, by decide, by decide, by decide⟩, ?_⟩, _, rfl⟩
  · exact ⟨by decide, by decide, by decide, fun ⟨_, he, _⟩ => (nomatch he), by decide⟩
  · refine ⟨?_, ?_, by decide⟩
    · intro q hq
      have h : ∀ q ∈ bench.panel.ports, q.lit = false ∧ q.display = none := by decide
      exact h q hq
    · intro q hq
      have h : ∀ q ∈ bench.panel.puts, q.light = .off := by decide
      simp [PutPanel.shows, h q hq, bench, State.reset, Panel.reset]

/-! ### Timers, home marks and late takes -/

theorem test_hyps_EmptyQueue_due :
    let s : State := { timed with ms := 999 }
    s.pending = [] ∧ s.live = true ∧ (s.ms + 1) % 1000 = 0 ∧ ({ timed with ms := 1000 } : State).dueRounds = [9] ∧
    ({ timed with ms := 1000 } : State).dueSeats = [1] := by decide
/-- The millisecond at which a round and a seat timer run out: the bid has won, the port is FAULTED. -/
theorem test_idle_due : (State.contests (State.idle { timed with ms := 1 })).map (·.state) = [.won] ∧
    (State.idle { timed with ms := 1 }).floor.ports.map (·.state) = [.faulted] := by decide

/-- A record of a bench out of phase, for slot 0. -/
def slipping (st : ContestState) (window : Nat) (mark : Bool) : State :=
  { slipped with contests := [{ record 9 st with slot := 0, window := window, readMark := mark }] }

theorem test_hyps_HomeMark_records : (slipping .awaitingSlot 0 false).live = true ∧
    (slipping .awaitingSlot 0 false).tracker.phase ≠ (slipping .awaitingSlot 0 false).cfg.reader ∧
    ((slipping .awaitingSlot 0 false).contests.map (·.tote)).Nodup ∧
    ((slipping .awaitingSlot 0 false).contests.map fun c => (c.state, c.slot)) = [(.awaitingSlot, 0)] ∧ (record 9 .awaitingSlot).slot ≠ 0 ∧
    ((slipping .lastChance 0 false).contests.map (·.window)) = [0] ∧
    ((slipping .lastChance 1 false).contests.map fun c => (c.window, c.readMark)) = [(1, false)] ∧
    ((slipping .lastChance 1 true).contests.map fun c => (c.window, c.readMark)) = [(1, true)] ∧
    ((slipping .diverting 0 false).contests.map (·.state)) = [.diverting] := by decide
theorem test_homeMark_passage : (after .homeMark (slipping .awaitingSlot 0 false)).contests.map (·.state) = [.lastChance] ∧
    (after .homeMark (slipping .lastChance 1 false)).contests = [] := by decide

/-- No late take: no roster entry, a holder, a round open. -/
theorem test_hyps_NoLateTake : bench.contestOf 9 = none ∧ bench.rosterOf 9 = none ∧
    (({ bench with roster := [{ entry9 with holder := some { score := 1, dist := 1, addr := 11 } }] } : State).rosterOf 9).map
      (·.holder.isSome) = some true ∧
    (({ bench with roster := [{ entry9 with closeAt := 1 }] } : State).rosterOf 9).map (·.closeAt) = some 1 ∧ bench.ms < 1 := by decide

/-! ### Endings, allocation, granting, passes -/

theorem test_hyps_Ending_bound : ({ record 9 .awaitingSlot with bound := [bound 1] } : Contest).bound ≠ [] ∧
    (record 9 .awaitingSlot).bound = [] ∧ ContestOutcome.relinquished ≠ .landed := by decide
theorem test_withdrawFrames : withdrawFrames 9 [sent (.bid 9) true, sent (.bid 9) false, sent (.take 9 true) false, sent (.bid 8) false] =
    [{ sent (.bid 9) true with ownerEnded := true }, sent (.bid 8) false] := by decide

theorem test_hyps_Allocation_lines : (([line 1 .waiting, line 2 .waiting].map fun l => (l.order, l.lineNo)).Nodup) ∧
    (∀ b, some (16 : Int) = some b → 1 ≤ b) ∧
    min ((line 1 .waiting).requested - (line 1 .waiting).picked) ([0].getD 0 0) = 0 ∧
    1 ≤ min ((line 1 .waiting).requested - (line 1 .waiting).picked) ([5].getD 0 0) ∧ (15 : Int) < (0 + (8 + 4 * 2) : Nat) ∧
    ((0 + (8 + 4 * 2) : Nat) : Int) ≤ 16 := by
  refine ⟨by decide, ?_, by decide⟩
  intro b h
  cases h
  decide

theorem test_hyps_Granting_empty :
    let s : State := { atPort .releaseWait false (some (box (some 9) [])) with
      floor := { (atPort .releaseWait false (some (box (some 9) []))).floor with releaseWait := [1] } }
    s.floor.releaseWait = [1] ∧ s.floor.port 1 = some (portAt .releaseWait false (some (box (some 9) []))) ∧
    s.floor.releaseLane.length + (s.floor.ports.filter fun y => y.state == .releasing).length < 2 ∧
    s.grantRoom.floor.ports.map (·.state) = [.vacant] := by decide

/-- A pass inside the entry of a hard close binds and releases nothing. -/
theorem test_hyps_Pass_closing :
    let s : State := { presenting (box (some 9) []) with lines := [line 1 .waiting], mode := .closingHard, closeEntry := true }
    s.floor.presentedTote 1 = some (box (some 9) []) ∧ s.closeEntry = true ∧ s.mode = .closingHard ∧
    (s.allocationPass 1).lines.map (·.state) = [.reserved] ∧ (s.allocationPass 1).floor.ports.map (·.state) = [.presented] := by decide

/-! ### Withdrawal and confirms -/

/-- The lit task's line cancel-pending, the only line of its tote. -/
def ending (display : Nat) : State :=
  { picking 5 display with
    lines := [{ line 1 .active with cancelPending := true }]
    floor := (presenting (box (some 9) [bound 1])).floor }

theorem test_hyps_Withdrawal : ((picking 5 3).put 1).map (fun q => (q.state, q.occupied)) = some (.opened, true) ∧
    (picking 5 3).panel.task = some (task 3) ∧ (task 3).put = 1 ∧ (picking 5 3).lines = [line 1 .active, line 2 .reserved] ∧
    (∀ y ∈ (picking 5 3).lines, y.order = 1 → y.lineNo = 1 → y = line 1 .active) ∧ (line 1 .active).cancelPending = false ∧
    ((ending 3).put 1).map (fun q => (q.state, q.occupied)) = some (.opened, true) ∧
    ((ending 3).lines.map fun l => (l.order, l.lineNo, l.cancelPending)) = [(1, 1, true)] := by decide
theorem test_withdrawal : (after (.putSensorReport 1 false) (picking 5 3)).lines.map (·.state) = [.reserved, .reserved] ∧
    (after (.putSensorReport 1 false) (ending 3)).lines = [] ∧
    (after (.putSensorReport 1 false) (ending 3)).journal.entries.map (·.body) =
      [.orderComplete 1 1 0 0 1] := by decide

theorem test_hyps_FullPick_general : (picking 5 3).panel.task = some (task 3) ∧ (task 3).display = (task 3).units ∧
    (line 1 .active).picked + (task 3).display ≠ 5 ∧ (ending 3).panel.task = some (task 3) ∧
    (∀ y ∈ (ending 3).lines, y.order = 1 → y.lineNo = 1 → y = { line 1 .active with cancelPending := true }) := by decide
/-- The line waits, is bound again by the pass and lit again; a cancel-pending one ends its order. -/
theorem test_fullPick : (after (.confirmKey 1) (picking 5 3)).lines.map (fun l => (l.state, l.picked)) = [(.active, 4), (.reserved, 1)] ∧
    (after (.confirmKey 1) (ending 3)).lines = [] := by decide
theorem test_hyps_OrderCheck : (∃ l ∈ [line 1 .waiting], l.order = 1 ∧ l.state ≠ .done ∧ l.state ≠ .cancelled) ∧
    (∀ l ∈ bench.lines, l.order ≠ 1) ∧
    ([line 1 .done, line 2 .cancelled].filter fun y => y.order == 1) = [line 1 .done, line 2 .cancelled] ∧
    ∀ y ∈ [line 1 .done, line 2 .cancelled], y.state = .done ∨ y.state = .cancelled := by decide

theorem test_hyps_Short_general : (ending 2).panel.task = some (task 2) ∧ (task 2).display < (task 2).units ∧
    (ending 2).floor.allTotes.find? (·.isId 9) = some (box (some 9) [bound 1]) ∧
    ([bound 1].filter fun b => !(b.order == 1 && b.lineNo == 1) && b.comp == 1 && (ending 2).boundIn .reserved b) = [] ∧
    ([bound 1, bound 2].filter fun b => !(b.order == 1 && b.lineNo == 1) && b.comp == 1 && (picking 5 2).boundIn .reserved b) =
      [bound 2] := by decide

/-! ### Exposures spent by one tick -/

/-- Two cold totes at 1 with a RESERVED line each, one in the lane and one presented. -/
def fading : State :=
  { presenting { cold 9 1 with bound := [bound 1] } with
    lines := [{ line 1 .reserved with cls := .chilled }, { line 2 .reserved with cls := .chilled }]
    floor :=
      { (presenting { cold 9 1 with bound := [bound 1] }).floor with lane := [{ cold 8 1 with bound := [bound 2] }] } }

theorem test_hyps_SecondTick_spent :
    let due (s : State) := (s.floor.mapTotes Tote.countDown).heldTotes.filter fun x => x.id.isSome && x.spent && !x.spentTaken
    (presenting (cold 9 1)).live = true ∧ due (presenting (cold 9 1)) = [cold 9 0] ∧
    ((presenting (cold 9 1)).floor.mapTotes Tote.countDown).heldTotes.find? (·.isId 9) = some (cold 9 0) ∧
    ((due fading).flatMap fun x => boundKeys x.bound).Nodup ∧ (due fading).map (·.id) = [some 8, some 9] := by decide
/-- Each tote's own line is counted, and then the presented tote leaves. -/
theorem test_secondTick_spent : (after .secondTick fading).journal.entries.map (·.body) =
    [.exposureSpent 8 1, .exposureSpent 9 1] ∧ (after .secondTick fading).lines.map (·.state) = [.waiting, .waiting] ∧
    (after .secondTick fading).floor.ports.map (·.state) = [.releasing] := by decide

/-! ### CANCEL -/

/-- Order 1 with a line on a claim, a line on the presented tote and a line lit there. -/
def ordered : State :=
  { picking 5 3 with
    lines := [line 1 .active, line 2 .reserved, line 3 .reserved]
    contests := [{ record 8 .awaitingSlot with bound := [bound 3] }] }

theorem test_hyps_Cancel_general : ordered.live = true ∧ (∃ l ∈ ordered.lines, l.order = 1) ∧
    (ordered.contests.map (·.tote)).Nodup ∧ me.first = ordered.cfg.address ∧ me.last = ordered.cfg.address := by decide
theorem test_cancel_general : (after (.cancel me 1) ordered).contests = [] ∧
    (after (.cancel me 1) ordered).lines.map (fun l => (l.state, l.cancelPending)) =
      [(.active, true), (.cancelled, false), (.cancelled, false)] ∧
    (after (.cancel me 1) ordered).floor.allTotes.map (·.bound) = [[bound 1]] ∧
    (after (.cancel me 1) ordered).queue.map (·.frame.payload) =
      [.offer 8 50 .relinquish .ambient [{ sku := 7, qty := 5 }] 0, .reply (.cancel 1 .accepted 2 true)] := by decide

/-! ### Closes -/

/-- A lit tote, an unlit one with a RESERVED line, a claim with a line for the lit tote's SKU. -/
def closing : State :=
  { picking 5 3 with
    lines := [line 1 .active, line 2 .reserved, line 3 .reserved, line 4 .reserved]
    floor :=
      { Floor.vacant 0 with
        ports := [portAt .presented true (some (box (some 9) [bound 1, bound 2])),
                  { portAt .presented true (some (box (some 7) [bound 4])) with num := 2 }]
        presentation := [2, 1] }
    contests := [{ record 8 .awaitingSlot with bound := [bound 3] }] }

theorem test_hyps_CloseHard_sweep : closing.live = true ∧ closing.mode = .opened ∧ (closing.contests.map (·.tote)).Nodup ∧
    (after (.closeHard me) closing).presentedTotes ≠ [] := by decide
/-- The claim's line is bound by a pass inside the entry, to the lit tote or to one that the sweep then releases. -/
theorem test_closeHard_sweep : (after (.closeHard me) closing).floor.ports.map (·.state) = [.presented, .releasing] ∧
    (after (.closeHard me) closing).floor.presentation = [1] ∧
    ((after (.closeHard me) closing).lines.map (·.state)).take 2 = [.active, .reserved] := by decide

theorem test_hyps_Close_queued :
    let carried : State := carrying (record 9 .bidQueued) (.bid 9)
    let queued : State := { bench with contests := [record 9 .won], queue := [sent (.take 9 false) false] }
    carried.mode = .opened ∧ (carried.contests.map (·.tote)).Nodup ∧
    (∃ e ∈ carried.queue, e.inCarriage = true ∧ e.ownerEnded = false ∧ e.frame.payload = .bid 9) ∧
    (∀ e ∈ queued.queue, e.inCarriage = false) ∧ (after (.closeSoft me) carried).contests = [record 9 .bidQueued] ∧
    (after (.closeSoft me) queued).contests = [] ∧ (after (.closeHard me) queued).contests = [] ∧
    (contesting .bidSent).contests = [record 9 .bidSent] := by decide
/-- Three claims at distances 191, 151 and 151, each given back after a nearer one. -/
def claiming : State :=
  { bench with contests := [{ record 7 .awaitingSlot with slot := 13 }, { record 8 .lastChance with slot := 53 },
                            { record 9 .awaitingSlot with slot := 53 }] }
theorem test_hyps_Close_near : claiming.live = true ∧ (claiming.contests.map (·.tote)).Nodup ∧
    (after (.closeHard me) claiming).journal.entries.map (·.body) =
      [.mode .opened .closingHard, .claimEnd 8 .relinquished 3, .claimEnd 9 .relinquished 3, .claimEnd 7 .relinquished 3,
       .mode .closingHard .closed] ∧
    ((after (.closeHard me) claiming).queue.map (·.frame.payload)).drop 3 =
      [.reply (.modeAction .closeHard .accepted .closed), .quiet .closed] := by decide +kernel
theorem test_hyps_Close_next : (∃ t, exec (.closeSoft me) (carrying (record 9 .bidQueued) (.bid 9)) = .next t) ∧
    ∃ t, exec (.closeHard me) closing = .next t := ⟨⟨_, rfl⟩, _, rfl⟩

/-! ### Bytes -/

theorem test_hyps_Bytes_malformed : receiveBytes 200 (spelled 3 9 me [9]) = .malformedControl me 9 ∧
    receiveBytes 200 (spelled 3 9 other [9]) = .malformedControl other 9 ∧
    receiveBytes 200 (spelled 3 2 me [0, 0, 0, 9]) = .badForm ∧ receiveBytes 200 (spelled 3 7 me [0, 0]) = .badForm ∧
    receiveBytes 200 (spelled 6 2 me [0, 0, 0, 9] ++ [1, 2, 3]) = .bid 60 0 0 9 := by decide +kernel

/-- A GRANT of 2 bytes and a CONTROL without action pass check and form. -/
theorem test_hyps_Bytes_none : receiveBytes 200 (spelled 3 6 me [0, 0]) ≠ .badCheck ∧ receiveBytes 200 (spelled 3 6 me [0, 0]) ≠ .badForm ∧
    receiveBytes 200 (spelled 3 9 me []) ≠ .badCheck ∧ receiveBytes 200 (spelled 3 9 me []) ≠ .badForm := by decide +kernel
/-- The payload of the answer to STATUS on the bench, with its first fault. -/
theorem test_status_bytes : (Payload.reply (.status .accepted faulty.statusData)).bytes =
    [9, 4, 0, 0x81, 0, 38, 2, 0xEE, 0, 0, 0, 7, 0, 0, 0, 0, 0, 4, 4, 0, 0, 0, 0, 0, 0, 0, 0, 0, 0, 0, 0, 0, 0, 0, 0x10] := by decide +kernel

/-! ### Resets -/

/-- Every place of the bench occupied. -/
def full : Sensors :=
  { lane := [true, true, true], seats := [true, false, true, true], releaseLane := [true, false], puts := List.replicate 12 true }

theorem test_hyps_Resets_held : unpowered.power.supplyOk = false ∧ unpowered.power.resetAsserted = false ∧
    asserted.power.supplyOk = true ∧ asserted.power.resetAsserted = true ∧ asserted.power.coldPending = false ∧
    (∃ i, buildImage asserted.straps asserted.memory = some i) ∧
    buildImage asserted.straps { ConfigMemory.sample with marker := 0 } = none :=
  ⟨by decide, by decide, by decide, by decide, by decide, ⟨_, rfl⟩, by decide⟩
/-- A cold reset after a fall of the supply and a warm one after an assertion, with the sensors read. -/
theorem test_resets_held : (after (.coldReset full) unpowered).floor.ports.map (fun q => (q.state, q.occupied)) =
      [(.releasing, true), (.inbound, false), (.releaseWait, true)] ∧
    (after (.coldReset full) unpowered).floor.lane.length = 1 ∧ (after (.coldReset full) unpowered).floor.releaseWait = [3] ∧
    (after (.coldReset full) unpowered).floor.releaseLane = [none] ∧
    (after (.coldReset full) unpowered).puts.map (·.occupied) = List.replicate 8 true ∧
    (after (.warmReset clear) asserted).ready = true := by decide

/-! ### The Line Table's invariant -/

/-- One line PROVISIONAL on a contest record, one RESERVED and the lit one on the tote at port 1. -/
def tabled : State :=
  { ordered with
    lines := [{ line 1 .active with binding := some (.tote 9) }, { line 2 .reserved with binding := some (.tote 9) },
              { line 3 .provisional with binding := some (.contest 8) }]
    contests := [{ record 8 .bidSent with bound := [bound 3] }] }

theorem test_hyps_Claims : ClaimsOk tabled ∧ ∃ t, step tabled = .next t := ⟨⟨by decide, by decide, by decide⟩, _, rfl⟩
theorem test_hyps_Lines : FloorOk tabled.floor ∧ LinesOk tabled := by
  refine ⟨test_hyps_Floor.1, by decide, by decide, by decide, by decide, by decide, by decide, ?_, ?_, ?_, by decide, ?_, ?_⟩
  · intro c hc
    cases hc with
    | tail _ h => cases h
    | head =>
        refine ⟨by decide, fun b hb => ?_⟩
        cases hb with
        | tail _ h => cases h
        | head => exact ⟨{ line 3 .provisional with binding := some (.contest 8) }, by decide, by decide, by decide, rfl, by decide⟩
  · intro x hx
    cases hx with
    | tail _ h => cases h
    | head =>
        refine ⟨by decide, fun b hb => ⟨9, rfl, ?_⟩⟩
        cases hb with
        | head => exact ⟨{ line 1 .active with binding := some (.tote 9) }, by decide, by decide, by decide, rfl, by decide⟩
        | tail _ hb =>
            cases hb with
            | tail _ h => cases h
            | head => exact ⟨{ line 2 .reserved with binding := some (.tote 9) }, by decide, by decide, by decide, rfl, by decide⟩
  · intro l hl t
    cases hl with
    | head => exact ⟨fun h => (nomatch h), fun h => (by cases h; decide)⟩
    | tail _ hl =>
        cases hl with
        | head => exact ⟨fun h => (nomatch h), fun h => (by cases h; decide)⟩
        | tail _ hl =>
            cases hl with
            | head => exact ⟨fun h => (by cases h; decide), fun h => (nomatch h)⟩
            | tail _ h => cases h
  · intro k hk
    cases hk
    exact ⟨by decide, ⟨_, rfl, rfl⟩, { line 1 .active with binding := some (.tote 9) }, by decide, by decide, rfl, rfl, by decide⟩
  · intro l hl hs
    cases hl with
    | head => exact ⟨_, rfl, by decide⟩
    | tail _ hl =>
        cases hl with
        | head => cases hs
        | tail _ hl =>
            cases hl with
            | head => cases hs
            | tail _ h => cases h

end Sys2Proof.Tests
end

section
/-! SUPPORT. The bench floor in form: what changing one port does to it, once, and from that every operation that moves a tote or a port's
state (06). -/

namespace Sys2Proof.Machine

/-- The floor in form, no port number repeated. -/
structure FloorForm (fl : Floor) : Prop where
  nums : fl.portNums.Nodup
  ok : FloorOk fl

/-- The RELEASING ports (R113). -/
def Floor.releasing (fl : Floor) : Nat := fl.ports.countP fun q => q.state == .releasing

theorem Floor.releasing_eq (fl : Floor) : (fl.ports.filter fun q => q.state == .releasing).length = fl.releasing :=
  List.countP_eq_length_filter.symm

namespace FloorForm

variable {a b : Floor}

/-! ### Looking up a port -/

theorem port_of_mem (h : FloorForm a) {q : Port} (hq : q ∈ a.ports) : a.port q.num = some q := by
  obtain ⟨m, hm⟩ : ∃ m, a.port q.num = some m := Option.isSome_iff_exists.mp (List.find?_isSome.mpr ⟨q, hq, by simp⟩)
  obtain ⟨mem, num⟩ := Floor.port_mem hm
  rw [hm, List.inj_on_of_nodup_map h.nums mem hq num]

/-- A port in a state, named by its number, is the record found. -/
theorem exists_state_iff (h : FloorForm a) {p : Nat} {q : Port} (hq : a.port p = some q) (st : PortState) :
    (∃ x ∈ a.ports, x.num = p ∧ x.state = st) ↔ q.state = st := by
  obtain ⟨mem, num⟩ := Floor.port_mem hq
  refine ⟨fun ⟨x, hx, hn, hs⟩ => ?_, fun hs => ⟨q, mem, num, hs⟩⟩
  have found := h.port_of_mem hx
  rw [hn, hq] at found
  exact Option.some.inj found ▸ hs

theorem mem_presentation_iff (h : FloorForm a) (n : Nat) :
    n ∈ a.presentation ↔ ∃ q ∈ a.ports, q.num = n ∧ q.state = .presented :=
  ⟨h.ok.presentation.2.1 n, fun ⟨q, hq, hn, hs⟩ => hn ▸ h.ok.presentation.2.2 q hq hs⟩

theorem mem_releaseWait_iff (h : FloorForm a) (n : Nat) :
    n ∈ a.releaseWait ↔ ∃ q ∈ a.ports, q.num = n ∧ q.state = .releaseWait :=
  ⟨h.ok.releaseWait.2.1 n, fun ⟨q, hq, hn, hs⟩ => hn ▸ h.ok.releaseWait.2.2 q hq hs⟩

/-- The head of the release-wait order is a port in RELEASE_WAIT. -/
theorem waiting_port (h : FloorForm a) {p : Nat} (hp : p ∈ a.releaseWait) : ∃ q, a.port p = some q ∧ q.state = .releaseWait := by
  obtain ⟨q, hq, rfl, hs⟩ := (h.mem_releaseWait_iff p).1 hp
  exact ⟨q, h.port_of_mem hq, hs⟩

theorem presented_port {p : Nat} {t : Tote} (hp : a.presentedTote p = some t) :
    ∃ q, a.port p = some q ∧ q.state = .presented ∧ q.tote = some t := by
  simp only [Floor.presentedTote, Option.bind_eq_some_iff] at hp
  obtain ⟨q, hq, ht⟩ := hp
  split at ht
  · exact ⟨q, hq, by simpa using ‹(q.state == PortState.presented) = true›, ht⟩
  · cases ht

end FloorForm

/-! ### An order of ports after one port's change -/

/-- `ys` lists, each once, what `xs` lists but for `p`, and `p` exactly when `c`. -/
def ListsAfter (xs : List Nat) (p : Nat) (c : Prop) (ys : List Nat) : Prop :=
  ys.Nodup ∧ ∀ n, n ∈ ys ↔ (n = p ∧ c) ∨ (n ≠ p ∧ n ∈ xs)

namespace ListsAfter

variable {xs : List Nat} {p : Nat} {c : Prop}

theorem same (n : xs.Nodup) (h : p ∈ xs ↔ c) : ListsAfter xs p c xs := by
  refine ⟨n, fun k => ?_⟩
  by_cases hk : k = p
  · simp [hk, h]
  · simp [hk]

theorem append (n : xs.Nodup) (hp : p ∉ xs) (hc : c) : ListsAfter xs p c (xs ++ [p]) := by
  refine ⟨List.nodup_append.2 ⟨n, by simp, fun k hk j hj e => hp ?_⟩, fun k => ?_⟩
  · rwa [← List.mem_singleton.1 hj, ← e]
  by_cases hk : k = p
  · simp [hk, hc]
  · simp [hk]

theorem remove (n : xs.Nodup) (hc : ¬c) : ListsAfter xs p c (xs.filter (· != p)) := by
  refine ⟨n.filter _, fun k => ?_⟩
  simp [hc, and_comm]

theorem tail {rest : List Nat} (n : xs.Nodup) (e : xs = p :: rest) (hc : ¬c) : ListsAfter xs p c rest := by
  subst e
  obtain ⟨hp, hr⟩ := List.nodup_cons.1 n
  refine ⟨hr, fun k => ?_⟩
  by_cases hk : k = p
  · simp [hk, hc, hp]
  · simp [hk]

end ListsAfter

/-! ### One port changed -/

/-- The RELEASING ports after one port's change. -/
theorem Floor.updPort_releasing {a : Floor} (n : a.portNums.Nodup) {p : Nat} {q : Port} (hq : a.port p = some q)
    (f : Port → Port) :
    (a.updPort p f).releasing + (if q.state = .releasing then 1 else 0) =
      a.releasing + (if (f q).state = .releasing then 1 else 0) := by
  obtain ⟨mem, rfl⟩ := Floor.port_mem hq
  obtain ⟨l, r, e, u⟩ := Floor.split_port n mem
  simp only [Floor.releasing, Floor.updPort, u]
  simp only [e, List.countP_append, List.countP_cons, beq_iff_eq]
  omega

/-- A floor in form stays in form when one port changes its state, if its record, its timer, the room and the two orders follow
(R103, R106, R108, R112, R113). -/
theorem FloorForm.changePort {a b : Floor} (h : FloorForm a) {p : Nat} {q : Port} (hq : a.port p = some q) (f : Port → Port)
    (hn : ∀ x, (f x).num = x.num) (ports : b.ports = (a.updPort p f).ports)
    (held : (f q).tote = none ↔ (f q).state = .vacant) (timer : (f q).seatTimer = none ↔ (f q).state ≠ .inbound)
    (room : b.releaseLane.length + a.releasing + (if (f q).state = .releasing then 1 else 0) ≤
      2 + (if q.state = .releasing then 1 else 0))
    (presentation : ListsAfter a.presentation p ((f q).state = .presented) b.presentation)
    (releaseWait : ListsAfter a.releaseWait p ((f q).state = .releaseWait) b.releaseWait) : FloorForm b := by
  obtain ⟨mem, rfl⟩ := Floor.port_mem hq
  -- A port of `b` is the changed one, or stands in `a` under another number.
  have cases : ∀ x ∈ b.ports, x = f q ∨ (x ∈ a.ports ∧ x.num ≠ q.num) := fun x hx => by
    rw [ports] at hx
    obtain ⟨y, hy, rfl⟩ := List.mem_map.1 hx
    by_cases e : y.num = q.num
    · simp [List.inj_on_of_nodup_map h.nums hy mem e]
    · simp [e, hy]
  have changed : f q ∈ b.ports := ports ▸ List.mem_map.2 ⟨q, mem, by simp⟩
  have others : ∀ x ∈ a.ports, x.num ≠ q.num → x ∈ b.ports := fun x hx e => ports ▸ List.mem_map.2 ⟨x, hx, by simp [e]⟩
  have order : ∀ (st : PortState) (xs ys : List Nat), (∀ n, n ∈ xs ↔ ∃ x ∈ a.ports, x.num = n ∧ x.state = st) →
      ListsAfter xs q.num ((f q).state = st) ys →
      ys.Nodup ∧ (∀ n ∈ ys, ∃ x ∈ b.ports, x.num = n ∧ x.state = st) ∧ ∀ x ∈ b.ports, x.state = st → x.num ∈ ys := by
    intro st xs ys hx ⟨nd, hy⟩
    refine ⟨nd, fun n hm => ?_, fun x hm hs => ?_⟩
    · rcases (hy n).1 hm with ⟨rfl, hs⟩ | ⟨hne, hm⟩
      · exact ⟨f q, changed, hn q, hs⟩
      · obtain ⟨x, hxa, rfl, hs⟩ := (hx n).1 hm
        exact ⟨x, others x hxa hne, rfl, hs⟩
    · rcases cases x hm with rfl | ⟨hxa, hne⟩
      · exact (hy _).2 (.inl ⟨hn q, hs⟩)
      · exact (hy _).2 (.inr ⟨hne, (hx _).2 ⟨x, hxa, rfl, hs⟩⟩)
  refine ⟨?_, fun x hx => ?_, fun x hx => ?_, ?_, order _ _ _ h.mem_presentation_iff presentation,
    order _ _ _ h.mem_releaseWait_iff releaseWait⟩
  · have nums : b.portNums = a.portNums := by
      rw [← Floor.updPort_nums a q.num f hn, Floor.portNums, ports, Floor.portNums]
    exact nums ▸ h.nums
  · rcases cases x hx with rfl | ⟨hxa, _⟩
    · exact held
    · exact h.ok.held x hxa
  · rcases cases x hx with rfl | ⟨hxa, _⟩
    · exact timer
    · exact h.ok.timer x hxa
  · have count := Floor.updPort_releasing h.nums hq f
    rw [Floor.releasing_eq, Floor.releasing, ports, ← Floor.releasing, Config.releaseLanePlaces]
    omega

namespace FloorForm

variable {a b : Floor}

theorem room (h : FloorForm a) : a.releaseLane.length + a.releasing ≤ 2 := by
  simpa [Floor.releasing_eq, Config.releaseLanePlaces] using h.ok.room

/-- An order that a port's change leaves as it is. -/
theorem presentation_same (h : FloorForm a) {p : Nat} {q : Port} (hq : a.port p = some q) {c : Prop}
    (hc : q.state = .presented ↔ c) : ListsAfter a.presentation p c a.presentation :=
  .same h.ok.presentation.1 (((h.mem_presentation_iff p).trans (h.exists_state_iff hq _)).trans hc)

theorem releaseWait_same (h : FloorForm a) {p : Nat} {q : Port} (hq : a.port p = some q) {c : Prop}
    (hc : q.state = .releaseWait ↔ c) : ListsAfter a.releaseWait p c a.releaseWait :=
  .same h.ok.releaseWait.1 (((h.mem_releaseWait_iff p).trans (h.exists_state_iff hq _)).trans hc)

/-- A port that is on neither order and takes no room, changed to another such state. -/
theorem changeIdle (h : FloorForm a) {p : Nat} {q : Port} (hq : a.port p = some q) (f : Port → Port)
    (hn : ∀ x, (f x).num = x.num) (hb : b.ports = (a.updPort p f).ports)
    (before : q.state = .vacant ∨ q.state = .inbound ∨ q.state = .faulted)
    (after : (f q).state = .vacant ∨ (f q).state = .inbound ∨ (f q).state = .faulted)
    (held : (f q).tote = none ↔ (f q).state = .vacant) (timer : (f q).seatTimer = none ↔ (f q).state ≠ .inbound)
    (lane : b.releaseLane = a.releaseLane) (pres : b.presentation = a.presentation) (wait : b.releaseWait = a.releaseWait) :
    FloorForm b := by
  have hr := h.room
  refine h.changePort hq f hn hb held timer ?_ (pres ▸ h.presentation_same hq ?_) (wait ▸ h.releaseWait_same hq ?_)
  · rw [lane]
    rcases before with e | e | e <;> rcases after with e' | e' | e' <;> simp only [e, e', reduceCtorEq, if_false] <;> omega
  all_goals rcases before with e | e | e <;> rcases after with e' | e' | e' <;> simp [e, e']

theorem of_ports (h : FloorForm a) (f : Port → Port) (p : b.ports = a.ports.map f)
    (n : ∀ q, (f q).num = q.num) (s : ∀ q, (f q).state = q.state) (r : ∀ q, (f q).tote = none ↔ q.tote = none)
    (d : ∀ q, (f q).seatTimer = none ↔ q.seatTimer = none) (l : b.releaseLane.length = a.releaseLane.length)
    (o : b.presentation = a.presentation) (w : b.releaseWait = a.releaseWait) : FloorForm b := by
  refine ⟨?_, h.ok.of_ports f p n s r d l o w⟩
  have nums : b.portNums = a.portNums := by
    rw [Floor.portNums, p, List.map_map]
    exact List.map_congr_left fun q _ => n q
  exact nums ▸ h.nums

theorem mapTotes (h : FloorForm a) (f : Tote → Tote) : FloorForm (a.mapTotes f) :=
  h.of_ports _ rfl (fun _ => rfl) (fun _ => rfl) (fun _ => Option.map_eq_none_iff) (fun _ => Iff.rfl) (List.length_map ..) rfl rfl

/-- The lane is no part of the form. -/
theorem withLane (h : FloorForm a) (x : List Tote) : FloorForm { a with lane := x } := ⟨h.nums, h.ok.1, h.ok.2, h.ok.3, h.ok.4, h.ok.5⟩

/-- The head leaves the release lane (R115). -/
theorem dropHead (h : FloorForm a) {x : Option Tote} {rest : List (Option Tote)} (e : a.releaseLane = x :: rest) :
    FloorForm { a with releaseLane := rest } := by
  refine ⟨h.nums, h.ok.held, h.ok.timer, ?_, h.ok.presentation, h.ok.releaseWait⟩
  have := h.ok.room
  rw [e, List.length_cons] at this
  dsimp only
  omega

/-- Routing turns a VACANT port INBOUND (R102). -/
theorem routeHead (h : FloorForm a) (d : Nat) : FloorForm (a.routeHead d) := by
  unfold Floor.routeHead
  split
  · rename_i t rest q hl hq
    have hv : q.state = .vacant := by
      have := List.find?_some hq
      simp only [Bool.and_eq_true, beq_iff_eq] at this
      exact this.1
    exact (h.withLane rest).changeIdle (FloorForm.port_of_mem (h.withLane rest) (Floor.routable_mem hq))
      (fun x => { x with state := .inbound, tote := some t, seatTimer := some d, routerStrokes := x.routerStrokes + 1 })
      (fun _ => rfl) rfl (.inl hv) (.inr (.inl rfl)) (by simp) (by simp) rfl rfl rfl
  · exact h

theorem routeUpTo (k d : Nat) (h : FloorForm a) : FloorForm (a.routeUpTo k d) := by
  induction k generalizing a with
  | zero => exact h
  | succ k ih => exact ih (h.routeHead d)

end FloorForm

end Sys2Proof.Machine
end

section
/-! SUPPORT. Every operation and every command on a floor in form leaves it in form. -/

namespace Sys2Proof.Machine

/-! ### Operations that leave the floor as it is -/

@[simp] theorem State.queueFrame_floor (s : State) (f : Frame) : (s.queueFrame f).floor = s.floor := by
  unfold State.queueFrame
  split <;> rfl

@[simp] theorem State.queueToAll_floor (s : State) (p : Payload) : (s.queueToAll p).floor = s.floor := s.queueFrame_floor _

@[simp] theorem State.queueTo_floor (s : State) (n : Nat) (p : Payload) : (s.queueTo n p).floor = s.floor := s.queueFrame_floor _

@[simp] theorem State.reply_floor (s : State) (n : Nat) (r : Reply) : (s.reply n r).floor = s.floor := s.queueFrame_floor _

@[simp] theorem State.queueQuiet_floor (s : State) : s.queueQuiet.floor = s.floor := by
  unfold State.queueQuiet
  split
  · rfl
  · exact State.queueTo_floor ..

@[simp] theorem State.completionTest_floor (s : State) : s.completionTest.floor = s.floor := by
  unfold State.completionTest
  split
  · exact State.queueQuiet_floor _
  · rfl

@[simp] theorem State.taskChoice_floor (s : State) : s.taskChoice.floor = s.floor := by
  unfold State.taskChoice
  split
  · split
    · rfl
    · split
      · split <;> rfl
      · rfl
  · rfl

@[simp] theorem State.orderCheck_floor (s : State) (o : OrderId) : (s.orderCheck o).floor = s.floor := by
  unfold State.orderCheck
  split
  · rfl
  · dsimp only
    split <;> rfl

@[simp] theorem State.reoffer_floor (s : State) (c : Contest) (n : Nat) : (s.reoffer c n).floor = s.floor :=
  State.queueToAll_floor _ _

@[simp] theorem State.openBench_floor (s : State) : s.openBench.floor = s.floor := by
  unfold State.openBench
  split
  · rfl
  · exact State.taskChoice_floor _

@[simp] theorem State.lateTake_floor (s : State) (t : ToteId) (n : Nat) : (s.lateTake t n).floor = s.floor := by
  unfold State.lateTake
  split
  · rfl
  · split
    · dsimp only
      split
      · rfl
      · exact State.queueFrame_floor _ _
    · rfl

@[simp] theorem State.handReport_floor (s : State) (t : ToteId) (n : Nat) : (s.handReport t n).floor = s.floor := by
  unfold State.handReport
  split
  · split <;> rfl
  · split
    · rfl
    · exact State.lateTake_floor _ _ _

@[simp] theorem State.readerReport_floor (r : ReaderReport) (s : State) : (s.readerReport r).floor = s.floor := by
  unfold State.readerReport
  split
  · rfl
  · unfold State.firstReport
    split
    · rfl
    · rfl
    · split
      · rfl
      · dsimp only
        split
        · exact State.handReport_floor _ _ _
        · rfl

@[simp] theorem State.divertHead_floor (s : State) : s.divertHead.floor = s.floor := by
  unfold State.divertHead
  split
  · rfl
  · split
    · dsimp only
      split <;> rfl
    · rfl

@[simp] theorem State.scoreOffer_floor (s : State) (o : OfferFrame) : (s.scoreOffer o).floor = s.floor := by
  unfold State.scoreOffer
  dsimp only
  split
  · rfl
  · exact State.queueFrame_floor _ _

@[simp] theorem State.phaseUnknown_floor (s : State) (x : Tote) : (s.phaseUnknown x).floor = s.floor := by
  unfold State.phaseUnknown
  split
  · split <;> rfl
  · rfl

@[simp] theorem State.queueRelease_floor (s : State) (x : Tote) : (s.queueRelease x).floor = s.floor := by
  unfold State.queueRelease
  split
  · exact State.queueToAll_floor _ _
  · rfl

@[simp] theorem State.dropEntries_floor (s : State) (k : Nat) : (s.dropEntries k).floor = s.floor := by
  unfold State.dropEntries
  dsimp only
  split
  · exact State.taskChoice_floor _
  · rfl

@[simp] theorem State.takeMark_floor (s : State) (d : Dest) (n : Nat) (ws : List Word) : (s.takeMark d n ws).floor = s.floor := by
  unfold State.takeMark State.markEntry
  split
  · split
    · exact State.reply_floor _ _ _
    · split <;> exact State.reply_floor _ _ _
  · rfl

@[simp] theorem State.startHead_floor (s : State) : s.startHead.floor = s.floor := by
  unfold State.startHead
  split
  · rfl
  · split <;> rfl

@[simp] theorem State.ownBidCarried_floor (s : State) (t : ToteId) : (s.ownBidCarried t).floor = s.floor := by
  unfold State.ownBidCarried
  split
  · rfl
  · split <;> rfl

@[simp] theorem State.replaceRequester_floor (s : State) (n : Nat) (a : ModeAction) : (s.replaceRequester n a).floor = s.floor :=
  State.reply_floor _ _ _

@[simp] theorem State.answerClosed_floor (s : State) (n : Nat) (a : ModeAction) : (s.answerClosed n a).floor = s.floor := by
  simp [State.answerClosed]

/-! ### Ports and release lane -/

/-- The port of a seat event: PRESENTED, its timer stopped, its seat occupied (R104). -/
def Port.seated (q : Port) : Port := { q with state := .presented, seatTimer := none, occupied := true }

namespace FloorForm

variable {s : State}

theorem foldl {α : Type} (f : State → α → State) (hf : ∀ {s : State} a, FloorForm s.floor → FloorForm (f s a).floor) (l : List α)
    (h : FloorForm s.floor) : FloorForm (l.foldl f s).floor := by
  induction l generalizing s with
  | nil => exact h
  | cons a l ih => exact ih (hf a h)

theorem route (h : FloorForm s.floor) : FloorForm s.route.floor := h.routeUpTo _ _

/-- A grant takes the head of the release-wait order off it and its port out of RELEASE_WAIT (R113). -/
theorem grantHead (h : FloorForm s.floor) : FloorForm s.grantHead.floor := by
  unfold State.grantHead
  split
  · exact h
  · rename_i p rest hw
    split
    · rename_i hr
      obtain ⟨q, hq, hs⟩ := h.waiting_port (p := p) (by simp [hw])
      have room : s.floor.releaseLane.length + s.floor.releasing < 2 := by
        simpa [State.hasRoom, Floor.releasing, Config.releaseLanePlaces] using hr
      have hq' : ({ s.floor with releaseWait := rest } : Floor).port p = some q := hq
      unfold State.grantTo
      simp only [hq']
      split
      · refine h.changePort hq (fun x => { x with state := .releasing, releaseStrokes := x.releaseStrokes + 1 }) (fun _ => rfl) rfl
          ?_ ?_ ?_ (h.presentation_same hq (by simp [hs])) (.tail h.ok.releaseWait.1 hw (by simp))
        · simp [h.ok.held q (Floor.port_mem hq).1, hs]
        · simp [h.ok.timer q (Floor.port_mem hq).1, hs]
        · simp only [hs, reduceCtorEq, if_true, if_false]
          change s.floor.releaseLane.length + _ + _ ≤ _
          omega
      · have vacated : FloorForm ({ s.floor with releaseWait := rest }.updPort p Port.vacate) := by
          have := h.room
          refine h.changePort hq Port.vacate (fun _ => rfl) rfl (by simp [Port.vacate]) (by simp [Port.vacate]) ?_
            (h.presentation_same hq (by simp [hs, Port.vacate])) (.tail h.ok.releaseWait.1 hw (by simp [Port.vacate]))
          simp only [hs, Port.vacate, reduceCtorEq, if_false]
          exact this
        rw [← (Floor.port_mem hq).2] at vacated
        unfold State.removeAtGrant
        split
        · exact vacated
        · refine FloorForm.route ?_
          rw [State.completionTest_floor]
          exact vacated
    · exact h

theorem grantUpTo (n : Nat) (h : FloorForm s.floor) : FloorForm (s.grantUpTo n).floor := by
  induction n generalizing s with
  | zero => exact h
  | succ n ih => exact ih h.grantHead

theorem grantRoom (h : FloorForm s.floor) : FloorForm s.grantRoom.floor := h.grantUpTo _

/-- A PRESENTED port leaves the presentation order for the tail of the release-wait order (R111). -/
theorem toReleaseWait (h : FloorForm s.floor) {p : Nat} {x : Tote} (hp : s.floor.presentedTote p = some x) (t : Tote)
    (c : ReleaseCause) : FloorForm (s.toReleaseWait p t c).floor := by
  obtain ⟨q, hq, hs, ht⟩ := presented_port hp
  have notWaiting : p ∉ s.floor.releaseWait := fun hm => by
    simp [(h.exists_state_iff hq _).1 ((h.mem_releaseWait_iff p).1 hm)] at hs
  refine FloorForm.grantRoom (h.changePort hq
    (fun q => { q with state := .releaseWait, tote := q.tote.map fun x => { x with cause := some c, bound := [] } })
    (fun _ => rfl) rfl (by simp [ht]) ?_ ?_ (.remove h.ok.presentation.1 (by simp))
    (.append h.ok.releaseWait.1 notWaiting rfl))
  · simp [h.ok.timer q (Floor.port_mem hq).1, hs]
  · have := h.room
    simp only [hs, reduceCtorEq, if_false]
    exact this

/-! ### Passes and release tests -/

theorem bindPass (h : FloorForm s.floor) (p : Nat) (t : Tote) : FloorForm (s.bindPass p t).floor := by
  unfold State.bindPass
  split
  · exact h
  · exact h.of_ports _ rfl (fun q => by split <;> rfl) (fun q => by split <;> rfl) (fun q => by split <;> simp)
      (fun q => by split <;> rfl) rfl rfl rfl

theorem testAfterPass (h : FloorForm s.floor) (p : Nat) : FloorForm (s.testAfterPass p).floor := by
  unfold State.testAfterPass
  split
  · exact h
  · rename_i t hp
    split
    · exact h
    · split
      · exact h.toReleaseWait hp _ _
      · exact h

theorem allocationPass (h : FloorForm s.floor) (p : Nat) : FloorForm (s.allocationPass p).floor := by
  unfold State.allocationPass
  split
  · exact h
  · have tested := (h.bindPass p ‹_›).testAfterPass p
    dsimp only
    split
    · exact tested
    · rwa [State.taskChoice_floor]

theorem releaseTest (h : FloorForm s.floor) (p : Nat) : FloorForm (s.releaseTest p).floor := by
  unfold State.releaseTest
  split
  · exact h
  · rename_i t hp
    split
    · exact h
    · split
      · exact h.toReleaseWait hp _ _
      · split
        · exact h.allocationPass p
        · exact h

theorem allPasses (h : FloorForm s.floor) : FloorForm s.allPasses.floor := foldl _ (fun p h => h.allocationPass p) _ h

theorem passesIf (b : Bool) (h : FloorForm s.floor) : FloorForm (s.passesIf b).floor := by
  unfold State.passesIf
  split
  · exact h.allPasses
  · exact h

/-! ### Contests -/

theorem endContest (h : FloorForm s.floor) (c : Contest) (o : ContestOutcome) (n : Nat) : FloorForm (s.endContest c o n).floor := by
  unfold State.endContest State.endSteps
  rw [State.completionTest_floor]
  refine passesIf _ ?_
  dsimp only
  split
  · rw [State.reoffer_floor]
    split <;> exact h
  · split <;> exact h

theorem queueFrame (h : FloorForm s.floor) (f : Frame) : FloorForm (s.queueFrame f).floor := by rwa [State.queueFrame_floor]

theorem takeBid (h : FloorForm s.floor) (k : Key) (t : ToteId) : FloorForm (s.takeBid k t).floor := by
  unfold State.takeBid
  split
  · exact h
  · split
    · exact h
    · split
      · dsimp only
        split
        · exact endContest (s := s.updContest t _) h _ _ _
        · exact h
      all_goals exact h

theorem takeTake (h : FloorForm s.floor) (k : Key) (t : ToteId) : FloorForm (s.takeTake k t).floor := by
  have held : FloorForm (s.holdBy k t).floor := h
  unfold State.takeTake
  dsimp only
  split
  · exact held
  · split
    · exact held
    · split
      case h_1 | h_2 => exact held.endContest _ _ _
      case h_3 | h_4 | h_5 =>
        split
        · exact held.endContest _ _ _
        · exact held
      case h_6 => exact held

theorem endGone (h : FloorForm s.floor) (t : ToteId) : FloorForm (s.endGone t).floor := by
  unfold State.endGone
  split
  · exact h
  · split
    case h_6 => exact h
    all_goals exact h.endContest _ _ _

theorem takeLanded (h : FloorForm s.floor) (n : Nat) (t : ToteId) : FloorForm (s.takeLanded n t).floor := by
  unfold State.takeLanded
  dsimp only
  split
  · exact h
  · exact endGone (s := s.forget t) h t

theorem takeExit (h : FloorForm s.floor) (t : ToteId) : FloorForm (s.takeExit t).floor := endGone (s := s.forget t) h t

theorem closeRound (h : FloorForm s.floor) (c : Contest) : FloorForm (s.closeRound c).floor := by
  unfold State.closeRound
  split
  · split
    · exact h.endContest _ _ _
    · split
      · exact queueFrame (s := s.updContest _ _) h _
      · exact h.endContest _ _ _
  · exact h.endContest _ _ _
  all_goals exact h

theorem expireRound (h : FloorForm s.floor) (t : ToteId) : FloorForm (s.expireRound t).floor := by
  unfold State.expireRound
  split
  · exact h
  · split
    · exact closeRound (s := s.roundOver t) h _
    · exact h

theorem requeueTake (h : FloorForm s.floor) (t : ToteId) : FloorForm (s.requeueTake t).floor := by
  unfold State.requeueTake
  split
  · exact h
  · split
    · split
      · exact h.queueFrame _
      · exact h.endContest _ _ _
    · exact h

theorem ownTakeCarried (h : FloorForm s.floor) (t : ToteId) : FloorForm (s.ownTakeCarried t).floor := by
  unfold State.ownTakeCarried
  split
  · exact h
  · split
    · dsimp only
      split
      · exact endContest (s := { s.updContest t _ with lines := _ }) h _ _ _
      · exact h
    · exact h

theorem lapseIfDue (h : FloorForm s.floor) (t : ToteId) : FloorForm (s.lapseIfDue t).floor := by
  unfold State.lapseIfDue
  split
  · exact h
  · split
    · exact h.endContest _ _ _
    · exact h

theorem slotPassage (h : FloorForm s.floor) (n : Nat) : FloorForm (s.slotPassage n).floor :=
  foldl _ (fun t h => h.lapseIfDue t) _ (s := { s with contests := s.contests.map (Contest.passage n) }) h

theorem spendRecord (h : FloorForm s.floor) (t : ToteId) (x : Tote) : FloorForm (s.spendRecord t x).floor := h.mapTotes _

theorem spendRelease (h : FloorForm s.floor) (t : ToteId) : FloorForm (s.spendRelease t).floor := by
  unfold State.spendRelease
  split
  · exact h.releaseTest _
  · exact h

theorem spendIfDue (h : FloorForm s.floor) (t : ToteId) : FloorForm (s.spendIfDue t).floor := by
  unfold State.spendIfDue
  split
  · exact h
  · split
    · exact ((h.spendRecord t _).spendRelease t).passesIf _
    · exact h

/-! ### Slot Tracker -/

theorem homeMark (h : FloorForm s.floor) : FloorForm s.homeMark.floor := by
  unfold State.homeMark
  split
  · split
    · exact h
    · exact slotPassage (s := State.relabel (State.updTracker (s.recordFault ..) _)) h 0
  · exact slotPassage (s := State.relabel (s.updTracker _)) h 0

theorem missHead (h : FloorForm s.floor) : FloorForm s.missHead.floor := by
  unfold State.missHead
  split
  · exact h
  · split
    · unfold State.missTote
      split
      · exact h
      · split
        · exact endContest (s := (s.updTracker _).recordFault ..) h _ _ _
        · exact h
    · exact h

theorem missUpTo (n : Nat) (h : FloorForm s.floor) : FloorForm (s.missUpTo n).floor := by
  induction n generalizing s with
  | zero => exact h
  | succ n ih => exact ih h.missHead

theorem closeWindow (h : FloorForm s.floor) : FloorForm s.closeWindow.floor := by
  unfold State.closeWindow
  dsimp only
  split <;> exact h

theorem movePhase (h : FloorForm s.floor) : FloorForm s.movePhase.floor := by
  unfold State.movePhase
  dsimp only
  split
  · exact slotPassage (s := s.updTracker _) h _
  · exact h

theorem ageWatch (h : FloorForm s.floor) : FloorForm s.ageWatch.floor := missUpTo (s := s.updTracker _) _ h

theorem ageApproach (h : FloorForm s.floor) : FloorForm s.ageApproach.floor := by
  unfold State.ageApproach
  rw [State.divertHead_floor]
  exact h

theorem fullCount (h : FloorForm s.floor) : FloorForm s.fullCount.floor :=
  ((((closeWindow (s := s.updTracker _) h).movePhase).ageWatch).ageApproach)

theorem encoderPulse (h : FloorForm s.floor) : FloorForm s.encoderPulse.floor := by
  unfold State.encoderPulse
  split
  · exact h.fullCount
  · exact h

theorem laneEntry (h : FloorForm s.floor) : FloorForm s.laneEntry.floor := by
  unfold State.laneEntry
  split
  · exact h
  · unfold State.confirmLanding
    split
    · exact h
    · split
      · unfold State.land
        dsimp only
        rw [State.completionTest_floor]
        refine route (spendIfDue ?_ _)
        rw [State.queueToAll_floor]
        exact h.withLane _
      · exact h

/-! ### Ports -/

/-- The seat event turns an INBOUND port PRESENTED (R104). -/
theorem seatTote (h : FloorForm s.floor) {p : Nat} {q : Port} (hq : s.floor.port p = some q) (hs : q.state = .inbound) :
    FloorForm (s.seatTote p).floor := by
  have notPresented : p ∉ s.floor.presentation := fun hm => by
    simp [(h.exists_state_iff hq _).1 ((h.mem_presentation_iff p).1 hm)] at hs
  refine allocationPass (s := { s with floor := { s.floor.updPort p Port.seated with presentation := s.floor.presentation ++ [p] } })
    (h.changePort hq Port.seated (fun _ => rfl) rfl ?_ (by simp [Port.seated]) ?_ (.append h.ok.presentation.1 notPresented rfl)
      (h.releaseWait_same hq (by simp [Port.seated, hs]))) p
  · simp [Port.seated, h.ok.held q (Floor.port_mem hq).1, hs]
  · have := h.room
    simp only [Port.seated, hs, reduceCtorEq, if_false]
    exact this

/-- A port-clear event moves the record of a RELEASING port to the release lane (R114). -/
theorem clearPort (h : FloorForm s.floor) {p : Nat} {q : Port} (hq : s.floor.port p = some q) (hs : q.state = .releasing) (t : Tote) :
    FloorForm (s.clearPort p t).floor := by
  unfold State.clearPort State.afterVacate
  refine route ?_
  rw [State.completionTest_floor]
  refine h.changePort hq (fun q => { q.vacate with occupied := false }) (fun _ => rfl) rfl (by simp [Port.vacate])
    (by simp [Port.vacate]) ?_ (h.presentation_same hq (by simp [hs, Port.vacate])) (h.releaseWait_same hq (by simp [hs, Port.vacate]))
  have := h.room
  simp only [hs, Port.vacate, reduceCtorEq, if_true, if_false, State.write_fields, List.length_append, List.length_singleton]
  omega

theorem recordSeat (h : FloorForm s.floor) (p : Nat) (b : Bool) : FloorForm (s.recordSeat p b).floor :=
  h.of_ports _ rfl (fun q => by split <;> rfl) (fun q => by split <;> rfl) (fun q => by split <;> rfl) (fun q => by split <;> rfl)
    rfl rfl rfl

theorem seatReport (h : FloorForm s.floor) (p : Nat) (b : Bool) : FloorForm (s.seatReport p b).floor := by
  unfold State.seatReport
  split
  · exact h
  · rename_i q hq
    split
    · exact h
    · split
      · rename_i hi
        exact h.seatTote hq (by simp only [Bool.and_eq_true, beq_iff_eq] at hi; exact hi.1)
      · split
        · rename_i hr
          split
          · exact h.clearPort hq (by simp only [Bool.and_eq_true, beq_iff_eq] at hr; exact hr.1) _
          · exact h.recordSeat p b
        · split
          · exact (h.recordSeat p b).route
          · exact h.recordSeat p b

theorem seatTimeout (h : FloorForm s.floor) (p : Nat) : FloorForm (s.seatTimeout p).floor := by
  unfold State.seatTimeout
  split
  · exact h
  · rename_i q hq
    split
    · rename_i hi
      have hs : q.state = .inbound := by simpa using hi
      have faulted : FloorForm (s.floor.updPort p fun x => { x with state := .faulted, seatTimer := none }) :=
        h.changeIdle hq (fun x => { x with state := .faulted, seatTimer := none }) (fun _ => rfl) rfl (.inr (.inl hs))
          (.inr (.inr rfl)) (by simp [h.ok.held q (Floor.port_mem hq).1, hs]) (by simp) rfl rfl rfl
      exact passesIf _ (faulted.of_ports _ rfl (fun q => by split <;> rfl) (fun q => by split <;> rfl) (fun q => by split <;> simp)
        (fun q => by split <;> rfl) rfl rfl rfl)
    · exact h

theorem clearKey (h : FloorForm s.floor) (p : Nat) : FloorForm (s.clearKey p).floor := by
  unfold State.clearKey
  split
  · exact h
  · rename_i q hq
    split
    · rename_i hf
      have vacated : FloorForm (s.floor.updPort p Port.vacate) :=
        h.changeIdle hq Port.vacate (fun _ => rfl) rfl (.inr (.inr (by simpa using hf))) (.inl rfl) (by simp [Port.vacate])
          (by simp [Port.vacate]) rfl rfl rfl
      unfold State.afterVacate
      split <;>
      · refine route ?_
        rw [State.completionTest_floor]
        exact vacated
    · exact h

theorem merge (h : FloorForm s.floor) : FloorForm s.merge.floor := by
  have dropped : ∀ (u : State) x rest, u.floor = s.floor → s.floor.releaseLane = x :: rest →
      FloorForm (State.afterMerge { u with floor := { u.floor with releaseLane := rest } }).floor := fun u x rest hu hl => by
    have granted : FloorForm (State.grantRoom { u with floor := { u.floor with releaseLane := rest } }).floor :=
      FloorForm.grantRoom (s := { u with floor := { u.floor with releaseLane := rest } }) (hu ▸ h.dropHead hl)
    unfold State.afterMerge
    dsimp only
    split
    · rwa [State.completionTest_floor]
    · exact granted
  unfold State.merge
  split
  · exact h
  · rename_i head rest hl
    cases head with
    | none => exact dropped s none rest rfl hl
    | some x => exact dropped _ (some x) rest (by simp) hl

/-! ### Panel and clock -/

theorem withdrawAt (h : FloorForm s.floor) (p : Nat) : FloorForm (s.withdrawAt p).floor := by
  unfold State.withdrawAt
  split
  · split
    · unfold State.withdrawTask
      rw [State.taskChoice_floor]
      refine releaseTest ?_ _
      unfold State.withdrawLine
      dsimp only
      split
      · rw [State.orderCheck_floor]
        exact h.mapTotes _
      · exact h
    · exact h
  · exact h

theorem putReport (h : FloorForm s.floor) (p : Nat) (b : Bool) : FloorForm (s.putReport p b).floor := by
  unfold State.putReport
  split
  · exact h
  · split
    · exact h
    · dsimp only
      split
      · exact withdrawAt (s := State.updPut (s.updPut p _) p _) h p
      · rw [State.taskChoice_floor]
        exact h
      · exact h
      · split <;> exact h
      all_goals exact h

theorem confirmKey (h : FloorForm s.floor) (p : Nat) : FloorForm (s.confirmKey p).floor := by
  unfold State.confirmKey
  split
  · split
    · unfold State.applyConfirm
      rw [State.taskChoice_floor]
      refine releaseTest (passesIf _ ?_) _
      rw [State.orderCheck_floor]
      exact ((h.mapTotes _).mapTotes _).mapTotes _
    · exact h
  · exact h

theorem shortKey (h : FloorForm s.floor) : FloorForm s.shortKey.floor := by
  unfold State.shortKey
  split <;> exact h

theorem tickWork (h : FloorForm s.floor) : FloorForm s.tickWork.floor := by
  unfold State.tickWork State.spendAll
  refine foldl _ (fun _ h => h.allPasses) _ (foldl _ (fun (d : ToteId × Tote) h => h.spendRelease d.1) _
    (foldl _ (fun (d : ToteId × Tote) h => h.spendRecord d.1 d.2) _ ?_))
  exact h.mapTotes _

theorem dueWork (h : FloorForm s.floor) : FloorForm s.dueWork.floor := by
  unfold State.dueWork
  refine foldl _ (fun p h => h.seatTimeout p) _ (foldl _ (fun t h => h.expireRound t) _ ?_)
  split
  · exact h.tickWork
  · exact h

theorem whenLive {f : State → State} (hf : ∀ {s : State}, FloorForm s.floor → FloorForm (f s).floor) (h : FloorForm s.floor) :
    FloorForm (Machine.whenLive f s).floor := by
  unfold Machine.whenLive
  split
  · exact hf h
  · exact h

theorem idle (h : FloorForm s.floor) : FloorForm s.idle.floor := by
  unfold State.idle
  split
  · exact h
  · exact whenLive (s := { s with ms := s.ms + 1 }) dueWork h

/-! ### Frames -/

theorem takeOffer (h : FloorForm s.floor) (o : OfferFrame) : FloorForm (s.takeOffer o).floor := by
  have again : ∀ {u : State} (c : Contest) (r : ContestOutcome), FloorForm u.floor →
      FloorForm ((u.endContest c r c.slot).scoreOffer o).floor := fun c r hu => by
    rw [State.scoreOffer_floor]
    exact hu.endContest _ _ _
  have heard : FloorForm ({ s with roster := refreshRoster s.roster (s.offerEntry o) } : State).floor := h
  unfold State.takeOffer
  split
  · exact h
  · unfold State.handleOffer
    split
    · exact heard
    · split
      · rw [State.scoreOffer_floor]
        exact heard
      · split
        · exact heard
        case h_2 | h_3 =>
          split
          · exact heard
          · exact again _ _ heard
        all_goals exact again _ _ heard

theorem takeGrant (h : FloorForm s.floor) (g : GrantFrame) : FloorForm (s.takeGrant g).floor := by
  unfold State.takeGrant
  split
  · split
    · rwa [State.reply_floor]
    · refine allPasses ?_
      rw [State.reply_floor]
      exact h
  · exact h

theorem cancelOrder (h : FloorForm s.floor) (n : Nat) (o : OrderId) : FloorForm (s.cancelOrder n o).floor := by
  have giveBack : ∀ {u : State} (t : ToteId), FloorForm u.floor → FloorForm (u.giveBackEmpty t).floor := fun t hu => by
    unfold State.giveBackEmpty
    split
    · exact hu
    · split
      · exact hu.endContest _ _ _
      · exact hu
  unfold State.cancelOrder
  rw [State.reply_floor, State.orderCheck_floor]
  exact foldl _ (fun p h => h.releaseTest p) _ (foldl _ (fun t hu => giveBack t hu) _ (s := s.cancelLines o) (h.mapTotes _))

theorem takeCancel (h : FloorForm s.floor) (d : Dest) (o : OrderId) : FloorForm (s.takeCancel d o).floor := by
  unfold State.takeCancel
  split
  · split
    · rwa [State.reply_floor]
    · split
      · rwa [State.reply_floor]
      · exact h.cancelOrder _ _
  · exact h

theorem takeFetch (h : FloorForm s.floor) (d : Dest) (k : Byte) : FloorForm (s.takeFetch d k).floor := by
  unfold State.takeFetch
  split
  · split
    · rwa [State.reply_floor]
    · rwa [State.queueTo_floor, State.dropEntries_floor]
  · exact h

/-- A reply to an addressed station leaves the floor. -/
theorem replyIf (h : FloorForm s.floor) (d : Dest) (n : Nat) (r : Reply) :
    FloorForm (if s.addressed d then s.reply n r else s).floor := by
  split
  · rwa [State.reply_floor]
  · exact h

theorem takeClearFaults (h : FloorForm s.floor) (d : Dest) (m : BitVec 16) : FloorForm (s.takeClearFaults d m).floor := by
  unfold State.takeClearFaults
  split
  · rw [State.reply_floor]
    exact h
  · exact h

/-! ### Modes -/

theorem takeOpen (h : FloorForm s.floor) (d : Dest) : FloorForm (s.takeOpen d).floor := by
  unfold State.takeOpen State.modeReply
  split
  · rwa [State.reply_floor, State.openBench_floor]
  · exact h

theorem withdrawAllQueued (h : FloorForm s.floor) : FloorForm s.withdrawAllQueued.floor := by
  refine foldl _ (fun {s} t h => ?_) _ h
  unfold State.withdrawQueued
  split
  · exact h
  · split
    · exact h.endContest _ _ _
    · exact h

theorem relinquishAll (h : FloorForm s.floor) : FloorForm s.relinquishAll.floor := by
  refine foldl _ (fun {s} t h => ?_) _ h
  unfold State.relinquish
  split
  · exact h
  · split
    · exact h.endContest _ _ _
    · exact h

theorem endClose (h : FloorForm s.floor) (n : Nat) (a : ModeAction) : FloorForm (s.endClose n a).floor := by
  unfold State.endClose State.modeReply
  rw [State.completionTest_floor, State.reply_floor]
  exact h

theorem enterSoft (h : FloorForm s.floor) (n : Nat) : FloorForm (s.enterSoft n).floor :=
  (withdrawAllQueued (s := s.beginClose .closingSoft n) h).endClose _ _

theorem enterHard (h : FloorForm s.floor) (n : Nat) : FloorForm (s.enterHard n).floor :=
  (foldl _ (fun p h => h.releaseTest p) _ (withdrawAllQueued (s := s.beginClose .closingHard n) h).relinquishAll).endClose _ _

theorem takeCloseSoft (h : FloorForm s.floor) (d : Dest) : FloorForm (s.takeCloseSoft d).floor := by
  unfold State.takeCloseSoft
  split
  · split
    · exact h.enterSoft _
    all_goals simpa using h
  · exact h

theorem takeCloseHard (h : FloorForm s.floor) (d : Dest) : FloorForm (s.takeCloseHard d).floor := by
  unfold State.takeCloseHard
  split
  · split
    · exact h.enterHard _
    · exact h.enterHard _
    all_goals simpa using h
  · exact h

/-! ### Bus -/

theorem deliver (h : FloorForm s.floor) (bs : List Byte) (r : Received) : FloorForm (s.deliver bs r).floor := by
  cases r with
  | badCheck => exact h
  | badForm => exact h
  | nothing => exact h
  | offer o => exact h.takeOffer o
  | bid a b c t => exact h.takeBid _ t
  | take a b c t l => exact h.takeTake _ t
  | landed a t => exact h.takeLanded a t
  | exit a t => exact h.takeExit t
  | grant g => exact h.takeGrant g
  | cancel d o => exact h.takeCancel d o
  | fetch d k => exact h.takeFetch d k
  | modeAction a d =>
      cases a with
      | opened => exact h.takeOpen d
      | closeSoft => exact h.takeCloseSoft d
      | closeHard => exact h.takeCloseHard d
  | status d => exact h.replyIf d _ _
  | clearFaults d m => exact h.takeClearFaults d m
  | mark d n ws => exact (s.takeMark_floor d n ws).symm ▸ h
  | malformedControl d a => exact h.replyIf d _ _

theorem carriedAs (h : FloorForm s.floor) (e : TxEntry) {f : State → State}
    (hf : ∀ {s : State}, FloorForm s.floor → FloorForm (f s).floor) : FloorForm (s.carriedAs e f).floor := by
  have carried : FloorForm (s.takeCarriage e).floor := h
  unfold State.carriedAs
  refine foldl _ (fun t h => h.requeueTake t) _ ?_
  split
  · exact carried
  · exact hf carried

theorem bidCarried (h : FloorForm s.floor) : FloorForm s.bidCarried.floor := by
  unfold State.bidCarried
  split
  · exact h
  · split
    · exact h.carriedAs _ fun {u} hu => by rwa [State.ownBidCarried_floor]
    · exact h

theorem takeCarried (h : FloorForm s.floor) : FloorForm s.takeCarried.floor := by
  unfold State.takeCarried
  split
  · exact h
  · split
    · exact h.carriedAs _ fun hu => hu.ownTakeCarried _
    · exact h

theorem otherCarried (h : FloorForm s.floor) : FloorForm s.otherCarried.floor := by
  unfold State.otherCarried
  split
  · exact h
  · split
    · exact h
    · exact h
    · exact h.carriedAs _ id

/-! ### Every command but a reset -/

theorem exec (c : Instr) (hc : resets c = false) {t : State} (he : Machine.exec c s = .next t) (h : FloorForm s.floor) :
    FloorForm t.floor := by
  have key : ∀ {f : State → State}, (∀ {s : State}, FloorForm s.floor → FloorForm (f s).floor) → Machine.taken f s = .next t →
      FloorForm t.floor := fun hf he => by
    cases he
    exact whenLive hf h
  cases c with
  | coldReset _ => cases hc
  | warmReset _ => cases hc
  | supplyFall => cases hc
  | resetAssertion => cases hc
  | encoderPulse => exact key encoderPulse he
  | advance => exact key fullCount he
  | homeMark => exact key homeMark he
  | readerReport r => exact key (fun {u} hu => (u.readerReport_floor r).symm ▸ hu) he
  | divert => exact key (fun {u} hu => u.divertHead_floor.symm ▸ hu) he
  | divertMiss => exact key missHead he
  | lapseWindowClose t => exact key (fun hu => hu.lapseIfDue t) he
  | laneEntry => exact key laneEntry he
  | seat p => exact key (fun hu => hu.seatReport p _) he
  | seatSensorReport p b => exact key (fun hu => hu.seatReport p b) he
  | seatTimeout p => exact key (fun hu => hu.seatTimeout p) he
  | clearKey p => exact key (fun hu => hu.clearKey p) he
  | portClear p => exact key (fun hu => hu.seatReport p _) he
  | merge => exact key merge he
  | putSensorReport p b => exact key (fun hu => hu.putReport p b) he
  | confirmKey p => exact key (fun hu => hu.confirmKey p) he
  | shortKey => exact key shortKey he
  | secondTick =>
      cases he
      split
      · exact h
      · exact whenLive (s := s.nextSecond) tickWork h
  | exposureSpent t => exact key (fun hu => hu.spendIfDue t) he
  | putFlashEnd p => exact key (f := fun x => { x with panel := x.panel.updPutLight p PutLight.settle }) id he
  | roundClose t => exact key (fun hu => hu.expireRound t) he
  | offer o => exact key (fun {u} hu => takeOffer (s := u.clearReceived) hu o) he
  | bid a b c t => exact key (fun {u} hu => takeBid (s := u.clearReceived) hu _ t) he
  | take a b c t l => exact key (fun {u} hu => takeTake (s := u.clearReceived) hu _ t) he
  | landed a t => exact key (fun {u} hu => takeLanded (s := u.clearReceived) hu a t) he
  | exit a t => exact key (fun {u} hu => takeExit (s := u.clearReceived) hu t) he
  | grant g => exact key (fun {u} hu => takeGrant (s := u.clearReceived) hu g) he
  | cancel d o => exact key (fun {u} hu => takeCancel (s := u.clearReceived) hu d o) he
  | fetch d k => exact key (fun {u} hu => takeFetch (s := u.clearReceived) hu d k) he
  | controlOpen d => exact key (fun {u} hu => takeOpen (s := u.clearReceived) hu d) he
  | closeSoft d => exact key (fun {u} hu => takeCloseSoft (s := u.clearReceived) hu d) he
  | closeHard d => exact key (fun {u} hu => takeCloseHard (s := u.clearReceived) hu d) he
  | status d => exact key (fun {u} hu => replyIf (s := u.clearReceived) hu d _ _) he
  | clearFaults d m => exact key (fun {u} hu => takeClearFaults (s := u.clearReceived) hu d m) he
  | mark d n ws => exact key (fun {u} hu => (u.clearReceived.takeMark_floor d n ws).symm ▸ hu) he
  | frameReceived bs => exact key (fun {u} hu => deliver (s := u.clearReceived) hu bs _) he
  | transmitStart => exact key (fun {u} hu => u.startHead_floor.symm ▸ hu) he
  | arbitrationLost => exact key (f := State.stopCarriage) id he
  | bidCarried => exact key bidCarried he
  | takeCarried => exact key takeCarried he
  | frameCarried => exact key otherCarried he

end FloorForm

end Sys2Proof.Machine
end

section
/-! SUPPORT. The parts of the invariant that look at the journal, the transmit queue, the roster, the panel, the mode, the claims and the
image: each stands every kind of change that `KeepsAll` lists. -/

namespace Sys2Proof.Machine

/-! ### Journal -/

/-- A recomputed flag agrees with the free space (R167). -/
theorem Journal.rebound_bound (j : Journal) : j.rebound.bound = decide (j.rebound.free < Config.journalReserve) := rfl

/-- Writing keeps the flag in agreement with the free space (R167). -/
theorem Journal.write_bound {j : Journal} (h : j.bound = decide (j.free < Config.journalReserve)) (now : Nat) (b : EntryBody) :
    (j.write now b).bound = decide ((j.write now b).free < Config.journalReserve) := by
  unfold Journal.write
  dsimp only
  split
  · exact h
  · exact Journal.rebound_bound _

/-! ### What is kept in the bench's books -/

/-- Journal flag, transmit queue, roster and panel in form. -/
structure BooksOk (s : State) : Prop where
  journal : JournalOk s
  queue : QueueOk s.queue
  roster : RosterOk s.roster
  panel : PanelOk s.panel

theorem RosterOk.sublist {a b : List RosterEntry} (h : RosterOk a) (s : (b.map RosterEntry.tote).Sublist (a.map RosterEntry.tote)) :
    RosterOk b :=
  ⟨by simpa using s.length_le.trans (by simpa using h.size), h.once.sublist s⟩

/-- The head goes into carriage where no frame is (R177). -/
theorem QueueOk.start {e : TxEntry} {rest : List TxEntry} (h : QueueOk (e :: rest))
    (none : (e :: rest).find? (·.inCarriage) = none) : QueueOk ({ e with inCarriage := true } :: rest) := by
  have quiet : ∀ x ∈ rest, x.inCarriage = false := fun x hx => by
    simpa using List.find?_eq_none.1 none x (List.mem_cons_of_mem _ hx)
  refine ⟨h.size, ?_, ?_⟩
  · simpa [List.pairwise_cons] using h.sorted
  · simpa using quiet

theorem BooksOk.keeps : Keeps BooksOk where
  lines _ h := ⟨h.journal, h.queue, h.roster, h.panel⟩
  puts _ h := ⟨h.journal, h.queue, h.roster, h.panel⟩
  lanes _ h := ⟨h.journal, h.queue, h.roster, h.panel⟩
  floor _ _ h := ⟨h.journal, h.queue, h.roster, h.panel⟩
  panel _ k h := ⟨h.journal, h.queue, h.roster, h.panel.step k⟩
  write b h := ⟨Journal.write_bound h.journal _ b, h.queue, h.roster, h.panel⟩
  faults _ h := ⟨h.journal, h.queue, h.roster, h.panel⟩
  enqueue f h := ⟨h.journal, h.queue.enqueue _ f, h.roster, h.panel⟩
  closed _ _ h := ⟨h.journal, h.queue, h.roster, h.panel⟩
  contests _ _ h := ⟨h.journal, h.queue, h.roster, h.panel⟩
  roster _ k h := ⟨h.journal, h.queue, h.roster.sublist k, h.panel⟩
  withdraw t h := ⟨h.journal, h.queue.withdraw t _, h.roster, h.panel⟩

theorem BooksOk.keepsAll : KeepsAll (fun _ => True) BooksOk where
  toKeeps := BooksOk.keeps
  enter _ _ _ _ _ _ h := ⟨h.journal, h.queue, h.roster, h.panel⟩
  fresh _ _ e h := ⟨h.journal, h.queue, h.roster.refresh _ e, h.panel⟩
  landing _ _ _ _ _ _ h := ⟨h.journal, h.queue, h.roster, h.panel⟩
  tracker _ _ _ h := ⟨h.journal, h.queue, h.roster, h.panel⟩
  clock _ _ _ h := ⟨h.journal, h.queue, h.roster, h.panel⟩
  received _ _ _ h := ⟨h.journal, h.queue, h.roster, h.panel⟩
  arrival _ _ _ h := ⟨h.journal, h.queue, h.roster, h.panel⟩
  act _ _ _ k h := ⟨h.journal, h.queue, h.roster, h.panel.act k⟩
  start _ _ _ _ hc hq h := ⟨h.journal, (hq ▸ h.queue).start (hq ▸ hc), h.roster, h.panel⟩
  stop _ _ h := ⟨h.journal, h.queue.map _ _ (fun _ => rfl) (fun _ e => by cases e), h.roster, h.panel⟩
  carry _ _ h := ⟨h.journal, h.queue.sublist List.filter_sublist, h.roster, h.panel⟩
  fetched _ _ _ h := ⟨Journal.rebound_bound _, h.queue, h.roster, h.panel⟩
  cleared _ _ _ h := ⟨h.journal, h.queue, h.roster, h.panel⟩
  reopen _ _ h := ⟨h.journal, h.queue, h.roster, h.panel⟩
  soft _ _ n _ h := BooksOk.keeps.enterSoft (fun _ _ _ h => ⟨h.journal, h.queue, h.roster, h.panel⟩)
    (fun h => ⟨h.journal, h.queue, h.roster, h.panel⟩) n h
  hard _ _ n _ h := BooksOk.keeps.enterHard (fun _ _ _ h => ⟨h.journal, h.queue, h.roster, h.panel⟩)
    (fun h => ⟨h.journal, h.queue, h.roster, h.panel⟩) n h
  replace _ _ _ _ h := ⟨h.journal, h.queue, h.roster, h.panel⟩

/-! ### Claims -/

theorem ClaimsOk.count_le {s : State} (h : ClaimsOk s) (t : ToteId) :
    (s.contests.map (·.tote)).count t + s.floor.ids.count t ≤ 1 := by
  simpa [List.count_append] using List.nodup_iff_count_le_one.1 h.once t

/-- Claims in form where no tote ID stands oftener and places are not exceeded. -/
theorem ClaimsOk.of_count {s : State} (ports : s.floor.portNums.Nodup)
    (once : ∀ t, (s.contests.map (·.tote)).count t + s.floor.ids.count t ≤ 1) (places : s.committed ≤ s.cfg.places) : ClaimsOk s :=
  ⟨ports, List.nodup_iff_count_le_one.2 fun t => by simpa [List.count_append] using once t, places⟩

theorem ClaimsOk.floorStep {s : State} {x : Floor} (h : ClaimsOk s) (k : FloorStep s.floor x) : ClaimsOk { s with floor := x } := by
  refine .of_count (k.nodup h.ports) (fun t => ?_) ?_
  · have := h.count_le t
    have := k.ids h.ports t
    dsimp only
    omega
  · exact (Nat.add_le_add_right (k.held h.ports) _).trans h.places

theorem ClaimsOk.contestsSublist {s : State} {x : List Contest} (h : ClaimsOk s)
    (k : (x.map Contest.tote).Sublist (s.contests.map Contest.tote)) : ClaimsOk { s with contests := x } := by
  refine .of_count h.ports (fun t => ?_) ?_
  · have := h.count_le t
    have fewer : (x.map (·.tote)).count t ≤ (s.contests.map (·.tote)).count t := k.count_le t
    dsimp only
    omega
  · exact (Nat.add_le_add_left (by simpa using k.length_le) _).trans h.places

/-- A record entered for a tote that neither table nor store holds, while a place is free (R61, R66). -/
theorem ClaimsOk.enter {s : State} (h : ClaimsOk s) {c : Contest} (hc : s.contestOf c.tote = none)
    (ht : s.toteStands c.tote = false) (hp : s.committed < s.cfg.places) : ClaimsOk (s.enter c) := by
  have stored : s.floor.ids.count c.tote = 0 := by
    rw [List.count_eq_zero, ← Floor.stands_iff]
    simpa [State.toteStands] using ht
  have contested : (s.contests.map (·.tote)).count c.tote = 0 := by
    rw [List.count_eq_zero]
    simpa [State.contestOf] using hc
  refine .of_count h.ports (fun t => ?_) ?_
  · have := h.count_le t
    change ((s.contests ++ [c]).map (·.tote)).count t + s.floor.ids.count t ≤ 1
    rw [List.map_append, List.count_append, List.map_singleton, List.count_singleton]
    split
    · obtain rfl : c.tote = t := by simpa using ‹(c.tote == t) = true›
      omega
    · omega
  · change s.floor.heldCount + (s.contests ++ [c]).length ≤ s.cfg.places
    rw [List.length_append, List.length_singleton]
    exact hp

/-- A landing takes the tote's record out of the table and its tote into the lane (R77). -/
theorem ClaimsOk.landing {s : State} (h : ClaimsOk s) {c : Contest} {x : Tote} (hc : s.contestOf c.tote = some c)
    (hx : x.id = some c.tote) :
    ClaimsOk { s with
      contests := s.contests.filter (fun y => y.tote != c.tote), floor := { s.floor with lane := s.floor.lane ++ [x] } } := by
  have ids : ∀ t, ({ s.floor with lane := s.floor.lane ++ [x] } : Floor).ids.count t =
      s.floor.ids.count t + if c.tote = t then 1 else 0 := fun t => by
    rw [Floor.ids_count, Floor.ids_count]
    by_cases e : c.tote = t
    · simp [hx, e]
      omega
    · simp [hx, e]
  have gone : ((s.contests.filter fun y => y.tote != c.tote).map (·.tote)).count c.tote = 0 := by
    rw [List.count_eq_zero]
    simp
  have mem := (State.contestOf_some hc).1
  have stood : 1 ≤ (s.contests.map (·.tote)).count c.tote := List.count_pos_iff.2 (List.mem_map.2 ⟨c, mem, rfl⟩)
  refine .of_count h.ports (fun t => ?_) ?_
  · have before := h.count_le t
    have fewer := ((List.filter_sublist (p := fun y => y.tote != c.tote) (l := s.contests)).map (·.tote)).count_le t
    dsimp only
    rw [ids]
    split
    · rename_i e
      subst e
      omega
    · omega
  · have fewer : (s.contests.filter fun y => y.tote != c.tote).length < s.contests.length :=
      List.length_filter_lt_length_iff_exists.2 ⟨c, mem, by simp⟩
    have places := h.places
    simp only [State.committed, Floor.heldCount_eq, List.length_append, List.length_singleton] at places ⊢
    change _ ≤ s.cfg.places
    omega

theorem ClaimsOk.keeps : Keeps ClaimsOk where
  lines _ h := ⟨h.ports, h.once, h.places⟩
  puts _ h := ⟨h.ports, h.once, h.places⟩
  lanes _ h := ⟨h.ports, h.once, h.places⟩
  floor _ k h := h.floorStep k
  panel _ _ h := ⟨h.ports, h.once, h.places⟩
  write _ h := ⟨h.ports, h.once, h.places⟩
  faults _ h := ⟨h.ports, h.once, h.places⟩
  enqueue _ h := ⟨h.ports, h.once, h.places⟩
  closed _ _ h := ⟨h.ports, h.once, h.places⟩
  contests _ k h := h.contestsSublist k
  roster _ _ h := ⟨h.ports, h.once, h.places⟩
  withdraw _ h := ⟨h.ports, h.once, h.places⟩

theorem ClaimsOk.keepsAll : KeepsAll (fun _ => True) ClaimsOk where
  toKeeps := ClaimsOk.keeps
  enter _ _ _ hc ht hp h := h.enter hc (ht h.ports) hp
  fresh _ _ _ h := ⟨h.ports, h.once, h.places⟩
  landing _ _ _ _ hc hx h := h.landing hc hx
  tracker _ _ _ h := ⟨h.ports, h.once, h.places⟩
  clock _ _ _ h := ⟨h.ports, h.once, h.places⟩
  received _ _ _ h := ⟨h.ports, h.once, h.places⟩
  arrival _ _ _ h := ⟨h.ports, h.once, h.places⟩
  act _ _ _ _ h := ⟨h.ports, h.once, h.places⟩
  start _ _ _ _ _ _ h := ⟨h.ports, h.once, h.places⟩
  stop _ _ h := ⟨h.ports, h.once, h.places⟩
  carry _ _ h := ⟨h.ports, h.once, h.places⟩
  fetched _ _ _ h := ⟨h.ports, h.once, h.places⟩
  cleared _ _ _ h := ⟨h.ports, h.once, h.places⟩
  reopen _ _ h := ⟨h.ports, h.once, h.places⟩
  soft _ _ n _ h := ClaimsOk.keeps.enterSoft (fun _ _ _ h => ⟨h.ports, h.once, h.places⟩) (fun h => ⟨h.ports, h.once, h.places⟩) n h
  hard _ _ n _ h := ClaimsOk.keeps.enterHard (fun _ _ _ h => ⟨h.ports, h.once, h.places⟩) (fun h => ⟨h.ports, h.once, h.places⟩) n h
  replace _ _ _ _ h := ⟨h.ports, h.once, h.places⟩

/-! ### Mode -/

/-- A requester is held exactly while closing (R147). -/
def RequesterOk (s : State) : Prop := s.requester.isSome = s.mode.closing

theorem RequesterOk.keeps : Keeps RequesterOk where
  lines _ h := h
  puts _ h := h
  lanes _ h := h
  floor _ _ h := h
  panel _ _ h := h
  write _ h := h
  faults _ h := h
  enqueue _ h := h
  closed _ _ _ := rfl
  contests _ _ h := h
  roster _ _ h := h
  withdraw _ h := h

/-- The mark of the entry steps of a close is the given one. -/
theorem KeepsFloor.closeEntryIs (b : Bool) : KeepsFloor fun s => s.closeEntry = b where
  lines _ h := h
  puts _ h := h
  lanes _ h := h
  floor _ _ h := h
  panel _ _ h := h
  write _ h := h
  faults _ h := h
  enqueue _ h := h
  closed _ _ h := h

theorem Keeps.closeEntryIs (b : Bool) : Keeps fun s => s.closeEntry = b where
  toKeepsFloor := KeepsFloor.closeEntryIs b
  contests _ _ h := h
  roster _ _ h := h
  withdraw _ h := h

/-- After the last step of a close no close is inside its entry steps (log 15). -/
theorem State.endClose_closeEntry (s : State) (n : Nat) (a : ModeAction) : (s.endClose n a).closeEntry = false :=
  (KeepsFloor.closeEntryIs false).completionTest rfl

theorem ModeOk.keepsAll : KeepsAll (fun _ => True) ModeOk where
  lines _ h := ⟨h.requester, h.settled⟩
  puts _ h := ⟨h.requester, h.settled⟩
  lanes _ h := ⟨h.requester, h.settled⟩
  floor _ _ h := ⟨h.requester, h.settled⟩
  panel _ _ h := ⟨h.requester, h.settled⟩
  write _ h := ⟨h.requester, h.settled⟩
  faults _ h := ⟨h.requester, h.settled⟩
  enqueue _ h := ⟨h.requester, h.settled⟩
  closed _ _ h := ⟨rfl, h.settled⟩
  contests _ _ h := ⟨h.requester, h.settled⟩
  roster _ _ h := ⟨h.requester, h.settled⟩
  withdraw _ h := ⟨h.requester, h.settled⟩
  enter _ _ _ _ _ _ h := ⟨h.requester, h.settled⟩
  fresh _ _ _ h := ⟨h.requester, h.settled⟩
  landing _ _ _ _ _ _ h := ⟨h.requester, h.settled⟩
  tracker _ _ _ h := ⟨h.requester, h.settled⟩
  clock _ _ _ h := ⟨h.requester, h.settled⟩
  received _ _ _ h := ⟨h.requester, h.settled⟩
  arrival _ _ _ h := ⟨h.requester, h.settled⟩
  act _ _ _ _ h := ⟨h.requester, h.settled⟩
  start _ _ _ _ _ _ h := ⟨h.requester, h.settled⟩
  stop _ _ h := ⟨h.requester, h.settled⟩
  carry _ _ h := ⟨h.requester, h.settled⟩
  fetched _ _ _ h := ⟨h.requester, h.settled⟩
  cleared _ _ _ h := ⟨h.requester, h.settled⟩
  reopen _ _ h := ⟨rfl, h.settled⟩
  soft _ _ n _ h := ⟨RequesterOk.keeps.enterSoft (fun _ _ hm _ => hm.symm) id n h.requester, State.endClose_closeEntry _ _ _⟩
  hard _ _ n _ h := ⟨RequesterOk.keeps.enterHard (fun _ _ hm _ => hm.symm) id n h.requester, State.endClose_closeEntry _ _ _⟩
  replace _ _ _ hm h := ⟨hm.symm, h.settled⟩

/-! ### Image and tracker -/

/-- Straps, memory and image of a state. -/
structure SameImage (a s : State) : Prop where
  straps : s.straps = a.straps
  memory : s.memory = a.memory
  image : s.image = a.image

theorem SameImage.refl (a : State) : SameImage a a := ⟨rfl, rfl, rfl⟩

theorem SameImage.cfg {a s : State} (h : SameImage a s) : s.cfg = a.cfg := by rw [State.cfg, h.image, State.cfg]

theorem SameImage.imageOk {a s : State} (h : SameImage a s) (k : ImageOk a) : ImageOk s := by
  rw [ImageOk, h.image, h.straps, h.memory]
  exact k

theorem SameImage.keeps (a : State) : Keeps (SameImage a) where
  lines _ h := ⟨h.straps, h.memory, h.image⟩
  puts _ h := ⟨h.straps, h.memory, h.image⟩
  lanes _ h := ⟨h.straps, h.memory, h.image⟩
  floor _ _ h := ⟨h.straps, h.memory, h.image⟩
  panel _ _ h := ⟨h.straps, h.memory, h.image⟩
  write _ h := ⟨h.straps, h.memory, h.image⟩
  faults _ h := ⟨h.straps, h.memory, h.image⟩
  enqueue _ h := ⟨h.straps, h.memory, h.image⟩
  closed _ _ h := ⟨h.straps, h.memory, h.image⟩
  contests _ _ h := ⟨h.straps, h.memory, h.image⟩
  roster _ _ h := ⟨h.straps, h.memory, h.image⟩
  withdraw _ h := ⟨h.straps, h.memory, h.image⟩

theorem SameImage.keepsAll (a : State) : KeepsAll (fun _ => True) (SameImage a) where
  toKeeps := SameImage.keeps a
  enter _ _ _ _ _ _ h := ⟨h.straps, h.memory, h.image⟩
  fresh _ _ _ h := ⟨h.straps, h.memory, h.image⟩
  landing _ _ _ _ _ _ h := ⟨h.straps, h.memory, h.image⟩
  tracker _ _ _ h := ⟨h.straps, h.memory, h.image⟩
  clock _ _ _ h := ⟨h.straps, h.memory, h.image⟩
  received _ _ _ h := ⟨h.straps, h.memory, h.image⟩
  arrival _ _ _ h := ⟨h.straps, h.memory, h.image⟩
  act _ _ _ _ h := ⟨h.straps, h.memory, h.image⟩
  start _ _ _ _ _ _ h := ⟨h.straps, h.memory, h.image⟩
  stop _ _ h := ⟨h.straps, h.memory, h.image⟩
  carry _ _ h := ⟨h.straps, h.memory, h.image⟩
  fetched _ _ _ h := ⟨h.straps, h.memory, h.image⟩
  cleared _ _ _ h := ⟨h.straps, h.memory, h.image⟩
  reopen _ _ h := ⟨h.straps, h.memory, h.image⟩
  soft _ _ n _ h := (SameImage.keeps a).enterSoft (fun _ _ _ h => ⟨h.straps, h.memory, h.image⟩) (fun h => ⟨h.straps, h.memory, h.image⟩) n h
  hard _ _ n _ h := (SameImage.keeps a).enterHard (fun _ _ _ h => ⟨h.straps, h.memory, h.image⟩) (fun h => ⟨h.straps, h.memory, h.image⟩) n h
  replace _ _ _ _ h := ⟨h.straps, h.memory, h.image⟩

theorem Keeps.trackerIs (x : Tracker) : Keeps fun s => s.tracker = x where
  lines _ h := h
  puts _ h := h
  lanes _ h := h
  floor _ _ h := h
  panel _ _ h := h
  write _ h := h
  faults _ h := h
  enqueue _ h := h
  closed _ _ h := h
  contests _ _ h := h
  roster _ _ h := h
  withdraw _ h := h

/-- What is no change of the Slot Tracker leaves its state as it is. -/
theorem KeepsAll.trackerIs (x : Tracker) : KeepsAll (· ≠ .tracker) fun s => s.tracker = x where
  toKeeps := Keeps.trackerIs x
  enter _ _ _ _ _ _ h := h
  fresh _ _ _ h := h
  landing _ _ _ _ _ _ h := h
  tracker k := absurd rfl k
  clock _ _ _ h := h
  received _ _ _ h := h
  arrival _ _ _ h := h
  act _ _ _ _ h := h
  start _ _ _ _ _ _ h := h
  stop _ _ h := h
  carry _ _ h := h
  fetched _ _ _ h := h
  cleared _ _ _ h := h
  reopen _ _ h := h
  soft _ _ n _ h := (Keeps.trackerIs x).enterSoft (fun _ _ _ h => h) (fun h => h) n h
  hard _ _ n _ h := (Keeps.trackerIs x).enterHard (fun _ _ _ h => h) (fun h => h) n h
  replace _ _ _ _ h := h

end Sys2Proof.Machine
end

section
/-! SUPPORT. The configuration image, clamped and in range (R186), and the image statement. -/

open Sys2Proof Sys2Proof.Machine

namespace Sys2Proof.Machine

theorem clampNat_eq {v a b : Nat} (h : a ≤ b) : clampNat v a b = max a (min b v) := by
  unfold clampNat
  split
  · omega
  · split <;> omega

theorem buildImage_eq_some_iff (st : Straps) (m : ConfigMemory) (i : Image) :
    buildImage st m = some i ↔ m.clamped.usable = true ∧ m.clamped.derive st = i := by
  unfold buildImage
  split <;> simp [*]

theorem buildImage_isSome (st : Straps) (m : ConfigMemory) : (buildImage st m).isSome = m.clamped.usable := by
  unfold buildImage
  split <;> simp [*]

/-- The validation of R186, test by test. -/
theorem ConfigMemory.usable_iff (m : ConfigMemory) :
    m.usable = true ↔
      m.marker = 0x5A3C#16 ∧ 1 ≤ m.address ∧ m.address ≤ 62 ∧ 16 ≤ m.loopLength ∧ m.loopLength ≤ 1023 ∧
        m.reader < m.loopLength ∧ 2 ≤ m.ports ∧ m.ports ≤ 4 ∧ 1 ≤ m.lanePlaces ∧ m.lanePlaces ≤ 3 ∧ 4 ≤ m.puts ∧ m.puts ≤ 12 ∧
        (m.served.ambient = true ∨ m.served.chilled = true ∨ m.served.frozen = true) ∧ m.depth + m.mergeOffset < m.loopLength := by
  simp only [ConfigMemory.usable, inRange, Config.validMarker, Bool.and_eq_true, Bool.or_eq_true, beq_iff_eq, decide_eq_true_eq,
    and_assoc, or_assoc]

theorem prescaleOf_named (c : BitVec 3) : [1, 2, 3, 4, 5, 6, 8, 12][c.toNat]? = some (prescaleOf c) := by
  revert c
  decide

theorem bitRateOf_named (c : BitVec 3) : [250, 500, 1000, 1000, 1000, 1000, 1000, 1000][c.toNat]? = some (bitRateOf c) := by
  revert c
  decide

theorem clockDivisorOf_named (c : BitVec 3) : [1, 2, 3, 4, 5, 6, 10, 12][c.toNat]? = some (clockDivisorOf c) := by
  revert c
  decide

theorem prescaleOf_pos (c : BitVec 3) : 0 < prescaleOf c := by
  revert c
  decide

/-- What the blocks rely on of the image in force: a prescale of at least 1, a reader on the loop, an approach queue of at least
one place. -/
structure Image.Ranges (i : Image) : Prop where
  prescale : 0 < i.prescale
  reader : i.reader < i.loopLength
  depth : 1 ≤ i.depth

theorem Image.ranges_of_build {st : Straps} {m : ConfigMemory} {i : Image} (h : buildImage st m = some i) : i.Ranges := by
  obtain ⟨usable, rfl⟩ := (buildImage_eq_some_iff st m i).1 h
  obtain ⟨_, _, _, _, _, reader, _⟩ := m.clamped.usable_iff.1 usable
  refine ⟨prescaleOf_pos _, reader, ?_⟩
  change 1 ≤ clampNat m.depth 1 8
  rw [clampNat_eq (by decide)]
  omega

theorem Image.ranges_sample : Image.sample.Ranges := ⟨by decide, by decide, by decide⟩

/-- The image in force is in range, the sample where there is none. -/
theorem ImageOk.ranges {s : State} (h : ImageOk s) : s.cfg.Ranges := by
  unfold State.cfg
  cases hi : s.image with
  | none => exact Image.ranges_sample
  | some i => exact Image.ranges_of_build (h.symm.trans hi)

end Sys2Proof.Machine

/-- Settles O56: the two sides of the validation, and the image's fields read off its derivation. -/
theorem imageFromStrapsAndMemory : Obligations.ImageFromStrapsAndMemory := by
  refine ⟨fun st m => ?_, fun st m i h => ?_⟩
  · rw [buildImage_isSome, ConfigMemory.usable_iff]
    simp only [ConfigMemory.clamped, clampNat_eq (show 1 ≤ 8 by decide), clampNat_eq (show 1 ≤ 16 by decide)]
  · obtain ⟨-, rfl⟩ := (buildImage_eq_some_iff st m i).1 h
    simp only [ConfigMemory.derive, ConfigMemory.clamped, prescaleOf_named, bitRateOf_named, clockDivisorOf_named, and_true]
    refine ⟨clampNat_eq (by decide), clampNat_eq (by decide), clampNat_eq (by decide), clampNat_eq (by decide), ?_, ?_,
      clampNat_eq (by decide), clampNat_eq (by decide), clampNat_eq (by decide)⟩
    · rw [clampNat_eq (by decide), Nat.zero_max]
    · rw [clampNat_eq (by decide), Nat.zero_max]
end

section
/-! SUPPORT. What the Slot Tracker's commands leave of its state, field by field (01). -/

namespace Sys2Proof.Machine

/-! ### What they keep -/

/-- The reference clock stands through everything but a second tick (logs 2 and 3). -/
theorem Keeps.msIs (m : Nat) : Keeps fun s => s.ms = m where
  lines _ h := h
  puts _ h := h
  lanes _ h := h
  floor _ _ h := h
  panel _ _ h := h
  write _ h := h
  faults _ h := h
  enqueue _ h := h
  closed _ _ h := h
  contests _ _ h := h
  roster _ _ h := h
  withdraw _ h := h

theorem KeepsAll.msIs (m : Nat) : KeepsAll (· ≠ .clock) fun s => s.ms = m where
  toKeeps := Keeps.msIs m
  enter _ _ _ _ _ _ h := h
  fresh _ _ _ h := h
  landing _ _ _ _ _ _ h := h
  tracker _ _ _ h := h
  clock k := absurd rfl k
  received _ _ _ h := h
  arrival _ _ _ h := h
  act _ _ _ _ h := h
  start _ _ _ _ _ _ h := h
  stop _ _ h := h
  carry _ _ h := h
  fetched _ _ _ h := h
  cleared _ _ _ h := h
  reopen _ _ h := h
  soft _ _ n _ h := (Keeps.msIs m).enterSoft (fun _ _ _ h => h) (fun h => h) n h
  hard _ _ n _ h := (Keeps.msIs m).enterHard (fun _ _ _ h => h) (fun h => h) n h
  replace _ _ _ _ h := h

namespace KeepsAll

variable {A : Change → Prop} {P : State → Prop} (h : KeepsAll A P) {s : State}
include h

theorem closeWindow (kt : A .tracker) (hs : P s) : P s.closeWindow := by
  unfold State.closeWindow
  refine h.updTracker kt _ ?_
  split
  · exact hs
  · exact h.recordFault _ _ _ _ hs

theorem movePhase (kt : A .tracker) (hs : P s) : P s.movePhase := by
  unfold State.movePhase
  dsimp only
  split
  · exact h.slotPassage _ (h.updTracker kt _ hs)
  · exact h.updTracker kt _ hs

theorem ageWatch (kt : A .tracker) (hs : P s) : P s.ageWatch := h.missUpTo kt _ (h.updTracker kt _ hs)

theorem ageApproach (kt : A .tracker) (hs : P s) : P s.ageApproach := h.divertHead kt (h.updTracker kt _ hs)

theorem recordInterval (kt : A .tracker) (hs : P s) : P s.recordInterval := h.updTracker kt _ hs

end KeepsAll

@[simp] theorem State.slotPassage_tracker (s : State) (n : Nat) : (s.slotPassage n).tracker = s.tracker :=
  (Keeps.trackerIs s.tracker).slotPassage n rfl

@[simp] theorem State.endContest_tracker (s : State) (c : Contest) (o : ContestOutcome) (n : Nat) :
    (s.endContest c o n).tracker = s.tracker :=
  (Keeps.trackerIs s.tracker).endContest c o n rfl

@[simp] theorem State.recordFault_tracker (s : State) (k : FaultKind) (p : Nat) (d : Word) (bs : List Byte) :
    (s.recordFault k p d bs).tracker = s.tracker := rfl

@[simp] theorem State.handReport_tracker (s : State) (t : ToteId) (n : Nat) : (s.handReport t n).tracker = s.tracker :=
  (KeepsAll.trackerIs s.tracker).handReport (by simp) t n rfl

/-- The image stays in force through the commands of the Slot Tracker. -/
theorem State.closeWindow_cfg (s : State) : s.closeWindow.cfg = s.cfg :=
  ((SameImage.keepsAll s).closeWindow trivial (.refl s)).cfg

theorem Tracker.withApproach_self {x : Tracker} {q : List ApproachEntry} (h : x.approach = q) : { x with approach := q } = x := by
  subst h
  rfl

theorem Tracker.withWatch_self {x : Tracker} {w : List WatchEntry} (h : x.watch = w) : { x with watch := w } = x := by
  subst h
  rfl

/-! ### Home mark -/

/-- The tracker with the phase at x_r and the slots of both queues recomputed from it (R7, R8). -/
def Tracker.corrected (i : Image) (x : Tracker) : Tracker :=
  { x with
    phase := i.reader, homed := true
    approach := x.approach.map fun e => { e with slot := subMod i.loopLength (i.reader + i.depth) (e.remaining + i.reader) }
    watch := x.watch.map fun e => { e with slot := subMod i.loopLength (i.divertPoint + e.aged) i.reader } }

/-- The bench with its phase corrected (R8). -/
def State.corrected (s : State) : State := { s with tracker := s.tracker.corrected s.cfg }

/-- The correction of the phase sets the tracker right and announces slot 0 (R7, R8). -/
theorem State.fixPhase_eq (s : State) : s.fixPhase = s.corrected.slotPassage 0 := rfl

theorem State.fixPhase_tracker (s : State) : s.fixPhase.tracker = s.tracker.corrected s.cfg := by
  rw [State.fixPhase_eq, State.slotPassage_tracker]
  rfl

theorem State.homeMark_tracker (s : State) :
    s.homeMark.tracker = if s.tracker.homed = true ∧ s.tracker.phase = s.cfg.reader then s.tracker else s.tracker.corrected s.cfg := by
  unfold State.homeMark
  by_cases hh : s.tracker.homed = true
  · by_cases hp : s.tracker.phase = s.cfg.reader
    · simp [hh, hp]
    · simp only [hh, hp, if_true, if_false, and_false]
      exact State.fixPhase_tracker _
  · simp only [hh]
    exact State.fixPhase_tracker _

/-! ### Reader report -/

/-- The entry of a carrier at the reader (R11, R12). -/
def State.readerEntry (s : State) (id : Option ToteId) : ApproachEntry := { id := id, slot := s.readerSlot, remaining := s.cfg.depth }

/-- What the first report of a window adds to the approach queue (R11, R12). -/
def State.reported (s : State) : ReaderReport → List ApproachEntry
  | .empty => []
  | .unreadable => [s.readerEntry none]
  | .tote t => [s.readerEntry (if s.tracker.approach.any (fun e => e.id == some t) then none else some t)]

/-- A window whose report has come, with the entries it added. -/
def State.withReport (s : State) (es : List ApproachEntry) : State :=
  { s with tracker := { s.tracker with readFlag := true, approach := s.tracker.approach ++ es } }

theorem State.readerReport_discarded {s : State} (hf : s.tracker.readFlag = true) (r : ReaderReport) : s.readerReport r = s := by
  unfold State.readerReport
  rw [if_pos hf]

theorem State.readerReport_empty {s : State} (hf : s.tracker.readFlag = false) : s.readerReport .empty = s.withReport [] := by
  unfold State.readerReport
  rw [if_neg (by simp [hf])]
  simp [State.firstReport, State.withReport, State.updTracker]

theorem State.readerReport_unreadable {s : State} (hf : s.tracker.readFlag = false) :
    s.readerReport .unreadable = (s.withReport [s.readerEntry none]).recordFault .readFail s.readerSlot 0 [] := by
  unfold State.readerReport
  rw [if_neg (by simp [hf])]
  rfl

theorem State.readerReport_duplicate {s : State} (hf : s.tracker.readFlag = false) {t : ToteId}
    (hd : s.tracker.approach.any (fun e => e.id == some t) = true) :
    s.readerReport (.tote t) = (s.withReport [s.readerEntry none]).recordFault .duplicateRead s.readerSlot t [] := by
  unfold State.readerReport State.firstReport
  rw [if_neg (by simp [hf])]
  exact if_pos hd

theorem State.readerReport_tote {s : State} (hf : s.tracker.readFlag = false) {t : ToteId}
    (hd : s.tracker.approach.any (fun e => e.id == some t) = false) :
    s.readerReport (.tote t) =
      if s.tracker.homed then (s.withReport [s.readerEntry (some t)]).handReport t s.readerSlot
      else s.withReport [s.readerEntry (some t)] := by
  unfold State.readerReport State.firstReport
  rw [if_neg (by simp [hf])]
  exact if_neg (by simp [State.updTracker, hd])

theorem State.readerReport_tracker {s : State} (hf : s.tracker.readFlag = false) (r : ReaderReport) :
    (s.readerReport r).tracker = (s.withReport (s.reported r)).tracker := by
  cases r with
  | empty => rw [State.readerReport_empty hf]; rfl
  | unreadable => rw [State.readerReport_unreadable hf]; rfl
  | tote t =>
      cases hd : s.tracker.approach.any (fun e => e.id == some t) with
      | true => simp only [State.readerReport_duplicate hf hd, State.reported, hd, if_true]; rfl
      | false =>
          simp only [State.readerReport_tote hf hd, State.reported, hd, Bool.false_eq_true, if_false]
          split
          · exact State.handReport_tracker _ _ _
          · rfl

/-! ### Divert -/

/-- An approach queue without a head that stands at remaining 0 (R15). -/
def passedOn : List ApproachEntry → List ApproachEntry
  | [] => []
  | e :: rest => if e.remaining = 0 then rest else e :: rest

/-- What the divert decision adds to the landing watch (R16, R18). -/
def State.diverts (s : State) : List WatchEntry :=
  match s.tracker.approach with
  | [] => []
  | e :: _ => if e.remaining = 0 then (s.divertTarget e).toList.map fun t => { tote := t, slot := e.slot, aged := 0 } else []

theorem State.diverts_length (s : State) : s.diverts.length ≤ 1 := by
  unfold State.diverts
  split
  · simp
  · split
    · rename_i e _ _ _
      cases s.divertTarget e <;> simp
    · simp

theorem State.diverts_aged (s : State) : ∀ e ∈ s.diverts, e.aged = 0 := by
  unfold State.diverts
  intro e he
  split at he
  · cases he
  · split at he
    · obtain ⟨t, -, rfl⟩ := List.mem_map.1 he
      rfl
    · cases he

theorem State.divertHead_tracker (s : State) :
    s.divertHead.tracker =
      { s.tracker with
        approach := passedOn s.tracker.approach, watch := s.tracker.watch ++ s.diverts
        divertStrokes := s.tracker.divertStrokes + s.diverts.length } := by
  cases ha : s.tracker.approach with
  | nil => simpa [State.divertHead, State.diverts, ha, passedOn] using (Tracker.withApproach_self ha).symm
  | cons e rest =>
      by_cases hr : e.remaining = 0
      · simp only [State.divertHead, State.diverts, passedOn, ha, hr, if_true]
        cases s.divertTarget e <;> simp [State.fireDivert, State.updTracker, State.updContest]
      · simpa [State.divertHead, State.diverts, ha, passedOn, hr] using (Tracker.withApproach_self ha).symm

/-! ### Divert miss -/

/-- The bench with its landing watch changed. -/
def State.withWatch (s : State) (w : List WatchEntry) : State := { s with tracker := { s.tracker with watch := w } }

/-- A landing watch without a head that has aged 2 (R20). -/
def missedOnce : List WatchEntry → List WatchEntry
  | [] => []
  | e :: rest => if 2 ≤ e.aged then rest else e :: rest

theorem missedOnce_iterate (w : List WatchEntry) (n : Nat) (h : w.length ≤ n) :
    missedOnce^[n] w = w.dropWhile fun e => decide (2 ≤ e.aged) := by
  induction n generalizing w with
  | zero => simp [List.length_eq_zero_iff.1 (Nat.le_zero.1 h)]
  | succ n ih =>
      rw [Function.iterate_succ_apply]
      cases w with
      | nil => simpa [missedOnce] using ih [] (by simp)
      | cons e rest =>
          by_cases ha : 2 ≤ e.aged
          · simp [missedOnce, ha, ih rest (by simpa using h)]
          · have fixed : missedOnce (e :: rest) = e :: rest := if_neg ha
            rw [fixed, Function.iterate_fixed fixed, List.dropWhile_cons_of_neg (by simpa using ha)]

theorem State.missTote_tracker (s : State) (t : ToteId) (n : Nat) : (s.missTote t n).tracker = s.tracker := by
  unfold State.missTote
  split
  · rfl
  · split
    · exact State.endContest_tracker _ _ _ _
    · rfl

theorem State.missHead_tracker (s : State) :
    s.missHead.tracker = { s.tracker with watch := missedOnce s.tracker.watch } := by
  cases hw : s.tracker.watch with
  | nil => simpa [State.missHead, hw, missedOnce] using (Tracker.withWatch_self hw).symm
  | cons e rest =>
      by_cases ha : 2 ≤ e.aged
      · simp only [State.missHead, hw, ha, if_true, State.missTote_tracker, missedOnce]
        rfl
      · simpa [State.missHead, hw, missedOnce, ha] using (Tracker.withWatch_self hw).symm

theorem State.missUpTo_tracker (n : Nat) (s : State) :
    (s.missUpTo n).tracker = { s.tracker with watch := missedOnce^[n] s.tracker.watch } := by
  induction n generalizing s with
  | zero => rfl
  | succ n ih =>
      rw [State.missUpTo, ih, State.missHead_tracker]
      rfl

/-! ### Advance -/

theorem State.closeWindow_tracker (s : State) : s.closeWindow.tracker = { s.tracker with readFlag := false } := by
  unfold State.closeWindow
  dsimp only
  split <;> rfl

theorem State.movePhase_tracker (s : State) :
    s.movePhase.tracker = { s.tracker with phase := (s.tracker.phase + 1) % s.cfg.loopLength } := by
  unfold State.movePhase
  dsimp only
  split
  · exact State.slotPassage_tracker _ _
  · rfl

/-- The landing watch after an advance: each entry one older, those that have aged 2 gone from its head (R20). -/
def agedWatch (w : List WatchEntry) : List WatchEntry :=
  (w.map fun e => { e with aged := e.aged + 1 }).dropWhile fun e => decide (2 ≤ e.aged)

theorem State.ageWatch_tracker (s : State) : s.ageWatch.tracker = { s.tracker with watch := agedWatch s.tracker.watch } := by
  unfold State.ageWatch
  dsimp only
  rw [State.missUpTo_tracker, missedOnce_iterate _ _ le_rfl]
  rfl

/-- The approach queue one position on (R15). -/
def agedApproach (q : List ApproachEntry) : List ApproachEntry := q.map fun e => { e with remaining := e.remaining - 1 }

/-- The history and the previous-advance time after an advance at `ms` (R5). -/
def Tracker.timed (ms : Nat) (x : Tracker) : Tracker :=
  { x with
    history := match x.prevAdvance with
      | none => x.history
      | some p => addInterval x.history (min (ms - p) Config.intervalCap)
    prevAdvance := some ms }

/-- What an advance leaves of the tracker: `d` is what the divert decision put on the watch. -/
theorem State.fullCount_tracker (s : State) :
    ∃ d : List WatchEntry, d.length ≤ 1 ∧ (∀ e ∈ d, e.aged = 0) ∧
      s.fullCount.tracker = Tracker.timed s.ms
        { s.tracker with
          prescale := 0, phase := (s.tracker.phase + 1) % s.cfg.loopLength, readFlag := false
          approach := passedOn (agedApproach s.tracker.approach), watch := agedWatch s.tracker.watch ++ d
          divertStrokes := s.tracker.divertStrokes + d.length } := by
  let s0 := s.updTracker fun x => { x with prescale := 0 }
  let s3 := s0.closeWindow.movePhase.ageWatch
  let s4 := s3.updTracker fun x => { x with approach := agedApproach x.approach }
  have hms : s3.ageApproach.ms = s.ms :=
    have k := KeepsAll.msIs s.ms
    k.ageApproach (by simp) (k.ageWatch (by simp) (k.movePhase (by simp) (k.closeWindow (by simp) (s := s0) rfl)))
  have h3 : s3.tracker =
      { s.tracker with
        prescale := 0, phase := (s.tracker.phase + 1) % s.cfg.loopLength, readFlag := false, watch := agedWatch s.tracker.watch } := by
    simp only [s3, State.ageWatch_tracker, State.movePhase_tracker, State.closeWindow_tracker, State.closeWindow_cfg]
    rfl
  refine ⟨s4.diverts, s4.diverts_length, s4.diverts_aged, ?_⟩
  change Tracker.timed s3.ageApproach.ms s4.divertHead.tracker = _
  rw [hms, State.divertHead_tracker]
  simp only [s4, State.updTracker_fields, h3]

/-! ### Lane entry -/

theorem State.laneEntry_tracker (s : State) : s.laneEntry.tracker = { s.tracker with watch := s.tracker.watch.tail } := by
  unfold State.laneEntry
  split
  · rename_i hw
    exact (Tracker.withWatch_self (by rw [hw, List.tail_nil])).symm
  · rename_i e rest hw
    unfold State.confirmLanding
    rw [hw]
    split
    · rfl
    · rename_i c hc
      split
      · exact (KeepsAll.trackerIs _).land (by simp) ((State.contestOf_some hc).2 ▸ hc) rfl
      · rfl

end Sys2Proof.Machine
end

section
/-! SUPPORT. The Slot Tracker in its ranges (R3, R4, R5, R14, R18): what each of its commands leaves is in range again. -/

namespace Sys2Proof.Machine

/-- The ranges of the Slot Tracker under an image. -/
structure TrackerFits (i : Image) (x : Tracker) : Prop where
  prescale : x.prescale < i.prescale
  phase : x.phase < i.loopLength
  history : x.history.length ≤ Config.historyLength
  intervals : ∀ v ∈ x.history, v ≤ Config.intervalCap
  approach : ApproachOk i.depth x.readFlag x.approach
  watch : WatchOk x.watch

theorem trackerOk_iff (s : State) : TrackerOk s ↔ TrackerFits s.cfg s.tracker :=
  ⟨fun h => ⟨h.1, h.2, h.3, h.4, h.5, h.6⟩, fun h => ⟨h.1, h.2, h.3, h.4, h.5, h.6⟩⟩

/-! ### Approach queue -/

theorem agedApproach_ids (q : List ApproachEntry) : (agedApproach q).filterMap (·.id) = q.filterMap (·.id) :=
  List.filterMap_map ..

/-- The entries of an approach queue in form that an advance leaves are those that do not reach 0: only the head can (R14, R15). -/
theorem ApproachOk.passedOn_eq {d : Nat} {f : Bool} {q : List ApproachEntry} (h : ApproachOk d f q) :
    passedOn (agedApproach q) = (agedApproach q).filter fun e => e.remaining ≠ 0 := by
  cases q with
  | nil => rfl
  | cons e rest =>
      have later : (agedApproach rest).filter (fun e => e.remaining ≠ 0) = agedApproach rest := by
        refine List.filter_eq_self.2 fun x hx => ?_
        obtain ⟨y, hy, rfl⟩ := List.mem_map.1 hx
        have := h.low e (by simp)
        have := (List.pairwise_cons.1 h.rising).1 y hy
        simp only [ne_eq, decide_eq_true_eq]
        omega
      change passedOn ({ e with remaining := e.remaining - 1 } :: agedApproach rest) =
        ({ e with remaining := e.remaining - 1 } :: agedApproach rest).filter _
      rw [List.filter_cons, later]
      by_cases he : e.remaining - 1 = 0 <;> simp [passedOn, he]

/-- An advance keeps the approach queue in form, and leaves no entry at D (R14). -/
theorem ApproachOk.aged {d : Nat} {f : Bool} {q : List ApproachEntry} (h : ApproachOk d f q) :
    ApproachOk d false (passedOn (agedApproach q)) := by
  rw [h.passedOn_eq]
  have old : ∀ x ∈ (agedApproach q).filter (fun e => e.remaining ≠ 0), ∃ y ∈ q, x.remaining = y.remaining - 1 ∧ x.remaining ≠ 0 :=
    fun x hx => by
      obtain ⟨hx, hr⟩ := List.mem_filter.1 hx
      obtain ⟨y, hy, rfl⟩ := List.mem_map.1 hx
      exact ⟨y, hy, rfl, by simpa using hr⟩
  refine ⟨fun x hx => ?_, fun x hx => ?_, ?_, ?_, ?_⟩
  · obtain ⟨_, _, _, hr⟩ := old x hx
    omega
  · obtain ⟨y, hy, e, _⟩ := old x hx
    have := h.high y hy
    omega
  · refine List.Pairwise.filter _ (List.pairwise_map.2 ?_)
    refine h.rising.imp_of_mem fun {x y} hx _ hxy => ?_
    have := h.low x hx
    dsimp only
    omega
  · rintro ⟨x, hx, hd⟩
    obtain ⟨y, hy, e, _⟩ := old x hx
    have := h.high y hy
    omega
  · exact (agedApproach_ids q ▸ h.once).sublist (List.filter_sublist.filterMap _)

/-- Between advances no entry of a queue in form stands at 0 (R14). -/
theorem ApproachOk.passedOn {d : Nat} {f : Bool} {q : List ApproachEntry} (h : ApproachOk d f q) : passedOn q = q := by
  cases q with
  | nil => rfl
  | cons e rest =>
      have := h.low e (by simp)
      exact if_neg (by omega)

theorem ApproachOk.relabel {d : Nat} {f : Bool} {q : List ApproachEntry} (h : ApproachOk d f q) (g : ApproachEntry → Nat) :
    ApproachOk d f (q.map fun e => { e with slot := g e }) := by
  have old : ∀ x ∈ q.map (fun e => { e with slot := g e }), ∃ y ∈ q, x.remaining = y.remaining := fun x hx => by
    obtain ⟨y, hy, rfl⟩ := List.mem_map.1 hx
    exact ⟨y, hy, rfl⟩
  refine ⟨fun x hx => ?_, fun x hx => ?_, List.pairwise_map.2 h.rising, ?_, ?_⟩
  · obtain ⟨y, hy, e⟩ := old x hx
    exact e ▸ h.low y hy
  · obtain ⟨y, hy, e⟩ := old x hx
    exact e ▸ h.high y hy
  · rintro ⟨x, hx, hd⟩
    obtain ⟨y, hy, e⟩ := old x hx
    exact h.window ⟨y, hy, e ▸ hd⟩
  · rw [List.filterMap_map]
    exact h.once

/-- A first report adds at most one entry, at D, of an ID that does not stand yet (R11, R14). -/
theorem ApproachOk.report {d : Nat} {q es : List ApproachEntry} (hd : 1 ≤ d) (h : ApproachOk d false q) (one : es.length ≤ 1)
    (new : ∀ e ∈ es, e.remaining = d ∧ ∀ t, e.id = some t → ∀ x ∈ q, x.id ≠ some t) : ApproachOk d true (q ++ es) := by
  have below : ∀ e ∈ q, e.remaining < d := fun e he =>
    lt_of_le_of_ne (h.high e he) fun hr => Bool.false_ne_true (h.window ⟨e, he, hr⟩)
  refine ⟨fun e he => ?_, fun e he => ?_, ?_, fun _ => rfl, ?_⟩
  · rcases List.mem_append.1 he with he | he
    · exact h.low e he
    · exact (new e he).1 ▸ hd
  · rcases List.mem_append.1 he with he | he
    · exact h.high e he
    · exact (new e he).1.le
  · refine List.pairwise_append.2 ⟨h.rising, ?_, fun x hx y hy => (new y hy).1 ▸ below x hx⟩
    match es, one with
    | [], _ => exact .nil
    | [_], _ => exact List.pairwise_singleton _ _
  · rw [List.filterMap_append]
    refine List.nodup_append.2 ⟨h.once, ?_, fun a ha b hb e => ?_⟩
    · match es, one with
      | [], _ => simp
      | [x], _ => cases hx : x.id <;> simp [hx]
    · obtain ⟨x, hx, hxa⟩ := List.mem_filterMap.1 ha
      obtain ⟨y, hy, hyb⟩ := List.mem_filterMap.1 hb
      exact (new y hy).2 b hyb x hx (e ▸ hxa)

/-! ### Landing watch -/

/-- A watch in form loses the entries that have aged 2 from its head, and keeps at most one, aged 1 (R18, R20). -/
theorem WatchOk.aged {w : List WatchEntry} (h : WatchOk w) :
    (agedWatch w).length ≤ 1 ∧ ∀ e ∈ agedWatch w, e.aged = 1 := by
  match w, h with
  | [], _ => simp [agedWatch]
  | [a], h =>
      have ha := h.young a (by simp)
      by_cases h2 : a.aged = 1
      · simp [agedWatch, h2]
      · have : a.aged = 0 := by omega
        simp [agedWatch, this]
  | [a, b], h =>
      have ha := h.young a (by simp)
      have hb : b.aged < a.aged := by simpa using h.falling
      have ha1 : a.aged = 1 := by omega
      have hb0 : b.aged = 0 := by omega
      simp [agedWatch, ha1, hb0]
  | _ :: _ :: _ :: _, h => exact absurd h.size (by simp)

/-- A fresh divert joins at the tail what an advance has left of the watch (R18). -/
theorem WatchOk.append {w d : List WatchEntry} (one : w.length ≤ 1) (aged : ∀ e ∈ w, e.aged = 1) (new : d.length ≤ 1)
    (fresh : ∀ e ∈ d, e.aged = 0) : WatchOk (w ++ d) := by
  have single : ∀ l : List WatchEntry, l.length ≤ 1 → l.Pairwise fun a b => b.aged < a.aged := fun l hl => by
    match l, hl with
    | [], _ => exact .nil
    | [_], _ => exact List.pairwise_singleton _ _
  refine ⟨by rw [List.length_append]; omega, fun e he => ?_, List.pairwise_append.2 ⟨single w one, single d new, fun a ha b hb => ?_⟩⟩
  · rcases List.mem_append.1 he with he | he
    · rw [aged e he]; decide
    · rw [fresh e he]; decide
  · rw [aged a ha, fresh b hb]
    decide

theorem WatchOk.sublist {w v : List WatchEntry} (h : WatchOk w) (s : v.Sublist w) : WatchOk v :=
  ⟨s.length_le.trans h.size, fun e he => h.young e (s.subset he), h.falling.sublist s⟩

theorem WatchOk.relabel {w : List WatchEntry} (h : WatchOk w) (g : WatchEntry → Nat) :
    WatchOk (w.map fun e => { e with slot := g e }) := by
  refine ⟨by simpa using h.size, fun e he => ?_, List.pairwise_map.2 h.falling⟩
  obtain ⟨y, hy, rfl⟩ := List.mem_map.1 he
  exact h.young y hy

theorem missedOnce_sublist (w : List WatchEntry) : (missedOnce w).Sublist w := by
  cases w with
  | nil => exact .refl _
  | cons e rest =>
      change (if 2 ≤ e.aged then rest else e :: rest).Sublist _
      split
      · exact List.sublist_cons_self _ _
      · exact .refl _

/-! ### History -/

theorem addInterval_length (h : List Nat) (v : Nat) (hl : h.length ≤ Config.historyLength) :
    (addInterval h v).length ≤ Config.historyLength := by
  rw [addInterval, List.length_drop, List.length_append, List.length_singleton]
  omega

theorem mem_addInterval {h : List Nat} {v x : Nat} (hx : x ∈ addInterval h v) : x ∈ h ∨ x = v := by
  simpa using List.mem_of_mem_drop hx

/-! ### Commands -/

namespace TrackerFits

variable {i : Image} {x : Tracker}

theorem timed (h : TrackerFits i x) (ms : Nat) : TrackerFits i (x.timed ms) := by
  refine ⟨h.prescale, h.phase, ?_, ?_, h.approach, h.watch⟩
  · unfold Tracker.timed
    dsimp only
    split
    · exact h.history
    · exact addInterval_length _ _ h.history
  · unfold Tracker.timed
    dsimp only
    split
    · exact h.intervals
    · intro v hv
      rcases mem_addInterval hv with hv | rfl
      · exact h.intervals v hv
      · exact Nat.min_le_right _ _

theorem corrected (h : TrackerFits i x) (hi : i.Ranges) : TrackerFits i (x.corrected i) :=
  ⟨h.prescale, hi.reader, h.history, h.intervals, h.approach.relabel _, h.watch.relabel _⟩

end TrackerFits

namespace TrackerOk

variable {s t : State}

theorem of_tracker (h : TrackerOk s) (image : SameImage s t) (tracker : t.tracker = s.tracker) : TrackerOk t := by
  rw [trackerOk_iff, image.cfg, tracker]
  exact (trackerOk_iff s).1 h

theorem fullCount (h : TrackerOk s) (hi : s.cfg.Ranges) : TrackerOk s.fullCount := by
  have fits := (trackerOk_iff s).1 h
  obtain ⟨d, one, fresh, ht⟩ := s.fullCount_tracker
  rw [trackerOk_iff, ((SameImage.keepsAll s).fullCount trivial (.refl s)).cfg, ht]
  refine TrackerFits.timed ?_ _
  exact ⟨hi.prescale, Nat.mod_lt _ (Nat.zero_lt_of_lt hi.reader), fits.history, fits.intervals, fits.approach.aged,
    .append fits.watch.aged.1 fits.watch.aged.2 one fresh⟩

theorem encoderPulse (h : TrackerOk s) (hi : s.cfg.Ranges) : TrackerOk s.encoderPulse := by
  unfold State.encoderPulse
  split
  · exact h.fullCount hi
  · exact ⟨by simpa [State.cfg] using ‹¬s.cfg.prescale ≤ s.tracker.prescale + 1›, h.phase, h.history, h.intervals, h.approach, h.watch⟩

theorem homeMark (h : TrackerOk s) (hi : s.cfg.Ranges) : TrackerOk s.homeMark := by
  rw [trackerOk_iff, ((SameImage.keepsAll s).homeMark trivial (.refl s)).cfg, State.homeMark_tracker]
  split
  · exact (trackerOk_iff s).1 h
  · exact ((trackerOk_iff s).1 h).corrected hi

theorem reported_new (s : State) (r : ReaderReport) :
    (s.reported r).length ≤ 1 ∧
      ∀ e ∈ s.reported r, e.remaining = s.cfg.depth ∧ ∀ t, e.id = some t → ∀ x ∈ s.tracker.approach, x.id ≠ some t := by
  cases r with
  | empty => simp [State.reported]
  | unreadable => simp [State.reported, State.readerEntry]
  | tote t =>
      refine ⟨by simp [State.reported], fun e he => ?_⟩
      rw [State.reported, List.mem_singleton] at he
      subst he
      refine ⟨rfl, fun u hu => ?_⟩
      simp only [State.readerEntry] at hu
      split at hu
      · cases hu
      · cases hu
        simpa using ‹¬s.tracker.approach.any (fun e => e.id == some t) = true›

theorem readerReport (h : TrackerOk s) (hi : s.cfg.Ranges) (r : ReaderReport) : TrackerOk (s.readerReport r) := by
  cases hf : s.tracker.readFlag with
  | true => rwa [State.readerReport_discarded hf]
  | false =>
      rw [trackerOk_iff, ((SameImage.keepsAll s).readerReport trivial trivial r (.refl s)).cfg, State.readerReport_tracker hf]
      have fits := (trackerOk_iff s).1 h
      obtain ⟨one, new⟩ := reported_new s r
      exact ⟨fits.prescale, fits.phase, fits.history, fits.intervals, (hf ▸ fits.approach).report hi.depth one new, fits.watch⟩

/-- On a queue in form no entry stands at the divert point between advances, so the decision finds none (R14, R16). -/
theorem divertHead (h : TrackerOk s) : TrackerOk s.divertHead := by
  have none : s.diverts = [] := by
    unfold State.diverts
    split
    · rfl
    · rename_i e rest ha
      have := h.approach.low e (by simp [ha])
      exact if_neg (by omega)
  refine h.of_tracker ((SameImage.keepsAll s).divertHead trivial (.refl s)) ?_
  rw [State.divertHead_tracker, none, h.approach.passedOn, List.append_nil, List.length_nil, Nat.add_zero]

theorem missHead (h : TrackerOk s) : TrackerOk s.missHead := by
  rw [trackerOk_iff, ((SameImage.keepsAll s).missHead trivial (.refl s)).cfg, State.missHead_tracker]
  exact ⟨h.prescale, h.phase, h.history, h.intervals, h.approach, h.watch.sublist (missedOnce_sublist _)⟩

theorem laneEntry (h : TrackerOk s) : TrackerOk s.laneEntry := by
  rw [trackerOk_iff, ((SameImage.keepsAll s).laneEntry trivial trivial (.refl s)).cfg, State.laneEntry_tracker]
  exact ⟨h.prescale, h.phase, h.history, h.intervals, h.approach, h.watch.sublist (List.tail_sublist _)⟩

/-- Every command but a reset keeps the Slot Tracker in its ranges. -/
theorem exec (h : TrackerOk s) (hi : s.cfg.Ranges) (c : Instr) (hc : resets c = false) (he : Machine.exec c s = .next t) :
    TrackerOk t := by
  have key : ∀ {f : State → State}, TrackerOk (f s) → Machine.taken f s = .next t → TrackerOk t := fun hf he => by
    cases he
    unfold whenLive
    split
    · exact hf
    · exact h
  by_cases ht : Change.tracker ∈ changes c
  · cases c with
    | encoderPulse => exact key (h.encoderPulse hi) he
    | advance => exact key (h.fullCount hi) he
    | homeMark => exact key (h.homeMark hi) he
    | readerReport r => exact key (h.readerReport hi r) he
    | divert => exact key h.divertHead he
    | divertMiss => exact key h.missHead he
    | laneEntry => exact key h.laneEntry he
    | _ => exact absurd ht (by simp [changes])
  · exact h.of_tracker ((SameImage.keepsAll s).exec c hc (fun _ _ => trivial) he (.refl s))
      ((KeepsAll.trackerIs s.tracker).exec c hc (fun k hk e => ht (e ▸ hk)) he rfl)

end TrackerOk

end Sys2Proof.Machine
end

section
/-! SUPPORT. The invariant over the resets (R188), over every step, and in the state after reset. -/

open Sys2Proof Sys2Proof.Machine

namespace Sys2Proof.Machine

theorem Inv.of_parts {s : State} (books : BooksOk s) (mode : ModeOk s) (claims : ClaimsOk s) (floor : FloorOk s.floor)
    (image : ImageOk s) (tracker : TrackerOk s) : Inv s :=
  ⟨books.journal, books.queue, mode, books.roster, claims, floor, image, tracker, books.panel⟩

theorem Inv.books {s : State} (h : Inv s) : BooksOk s := ⟨h.journal, h.queue, h.roster, h.panel⟩

theorem Inv.form {s : State} (h : Inv s) : FloorForm s.floor := ⟨h.claims.ports, h.floor⟩

/-! ### The floor that a reset reads -/

theorem occupiedCount_le (n : Nat) (xs : List Bool) : occupiedCount n xs ≤ n :=
  List.countP_le_length.trans (List.length_take_le _ _)

theorem range_succ_nodup (n : Nat) : ((List.range n).map (· + 1)).Nodup :=
  List.nodup_range.map (add_left_injective 1)

theorem mem_resetPorts {n : Nat} {seats : List Bool} {q : Port} (h : q ∈ resetPorts n seats) :
    q = Port.atReset q.num q.occupied := by
  obtain ⟨k, -, rfl⟩ := List.mem_map.1 h
  rfl

theorem resetPorts_nums (n : Nat) (seats : List Bool) : (resetPorts n seats).map (·.num) = (List.range n).map (· + 1) := by
  rw [resetPorts, List.map_map]
  rfl

theorem Port.atReset_state (num : Nat) (occ : Bool) (st : PortState) (h : (Port.atReset num occ).state = st) :
    (occ = true ∧ st = .releaseWait) ∨ (occ = false ∧ st = .vacant) := by
  subst h
  cases occ <;> simp [Port.atReset]

/-- The floor as the sensors read it is in form: RELEASE_WAIT exactly at the occupied seats (R122). -/
theorem FloorForm.atReset (i : Image) (x : Sensors) : FloorForm (Floor.atReset i x) := by
  have waiting : ∀ q ∈ resetPorts i.ports x.seats, q.occupied = true ↔ q.state = .releaseWait := fun q hq => by
    rw [mem_resetPorts hq]
    cases q.occupied <;> simp [Port.atReset]
  have idle : ∀ q ∈ resetPorts i.ports x.seats, ∀ st, q.state = st → st = .releaseWait ∨ st = .vacant := fun q hq st hs => by
    rw [mem_resetPorts hq] at hs
    exact (Port.atReset_state _ _ _ hs).imp And.right And.right
  have nums : ((resetPorts i.ports x.seats).map (·.num)).Nodup := resetPorts_nums _ _ ▸ range_succ_nodup _
  refine ⟨nums, fun q hq => ?_, fun q hq => ?_, ?_, ⟨List.nodup_nil, by simp [Floor.atReset], fun q hq hs => ?_⟩,
    ⟨nums.sublist (List.filter_sublist.map _), fun p hp => ?_, fun q hq hs => ?_⟩⟩
  · rw [mem_resetPorts hq]
    cases q.occupied <;> simp [Port.atReset]
  · rw [mem_resetPorts hq]
    cases q.occupied <;> simp [Port.atReset]
  · have none : (resetPorts i.ports x.seats).filter (fun q => q.state == .releasing) = [] :=
      List.filter_eq_nil_iff.2 fun q hq hs => by simpa using idle q hq _ (beq_iff_eq.1 hs)
    change (List.replicate _ _).length + ((resetPorts i.ports x.seats).filter _).length ≤ _
    rw [none, List.length_replicate]
    exact occupiedCount_le _ _
  · simpa using idle q hq _ hs
  · obtain ⟨q, hq, rfl⟩ := List.mem_map.1 hp
    obtain ⟨hq, ho⟩ := List.mem_filter.1 hq
    exact ⟨q, hq, rfl, (waiting q hq).1 ho⟩
  · exact List.mem_map_of_mem (List.mem_filter.2 ⟨hq, (waiting q hq).2 hs⟩)

theorem FloorForm.vacant_zero : FloorForm (Floor.vacant 0) :=
  ⟨List.nodup_nil, by simp [Floor.vacant], by simp [Floor.vacant], by simp [Floor.vacant], by simp [Floor.vacant],
    by simp [Floor.vacant]⟩

/-- The records a reset makes are orphans: none carries a tote ID (R91). -/
theorem Floor.atReset_ids (i : Image) (x : Sensors) : (Floor.atReset i x).ids = [] := by
  refine List.eq_nil_iff_forall_not_mem.2 fun t ht => ?_
  rw [← List.count_pos_iff, Floor.ids_count] at ht
  have lane : (Floor.atReset i x).lane.countP (fun y => y.id == some t) = 0 :=
    List.countP_eq_zero.2 fun y hy => by rw [List.eq_of_mem_replicate hy]; simp [Tote.newOrphan]
  have ports : (Floor.atReset i x).ports.countP (fun q => q.tote.bind (·.id) == some t) = 0 :=
    List.countP_eq_zero.2 fun q hq => by
      rw [mem_resetPorts hq]
      cases q.occupied <;> simp [Port.atReset, Tote.seatedOrphan, Tote.newOrphan]
  have releaseLane : (Floor.atReset i x).releaseLane.countP (fun y => y.bind (·.id) == some t) = 0 :=
    List.countP_eq_zero.2 fun y hy => by rw [List.eq_of_mem_replicate hy]; simp
  omega

theorem Floor.atReset_heldCount_le (i : Image) (x : Sensors) : (Floor.atReset i x).heldCount ≤ i.ports + i.lanePlaces := by
  have lane : (Floor.atReset i x).lane.length ≤ i.lanePlaces := by
    change (List.replicate _ _).length ≤ _
    rw [List.length_replicate]
    exact occupiedCount_le _ _
  have ports : (Floor.atReset i x).ports.countP (·.tote.isSome) ≤ i.ports := by
    refine List.countP_le_length.trans ?_
    change ((List.range i.ports).map _).length ≤ _
    rw [List.length_map, List.length_range]
  rw [Floor.heldCount_eq]
  omega

/-! ### Taking a reset -/

theorem PanelOk.reset (n k : Nat) : PanelOk (Panel.reset n k) := by
  refine ⟨fun q hq => ?_, fun q hq => ?_, fun q hq => ?_⟩
  all_goals
    obtain ⟨_, -, rfl⟩ := List.mem_map.1 hq
    simp [Panel.reset, PortPanel.shows, PutPanel.shows, PutLight.young]

theorem Journal.afterReset_bound (k : ResetKind) (n : Nat) (j : Journal) :
    (j.afterReset k n).bound = decide ((j.afterReset k n).free < Config.journalReserve) := by
  cases k <;> rfl

section
variable (s : State) (k : ResetKind) (img : Option Image) (puts : List Put) (fl : Floor) (n p o : Nat)

theorem State.blocksReset_books : BooksOk (s.blocksReset k img puts fl (.reset n p) o) :=
  ⟨Journal.afterReset_bound k o s.journal, ⟨Nat.zero_le _, .nil, Nat.zero_le _⟩, ⟨Nat.zero_le _, List.nodup_nil⟩, .reset n p⟩

theorem State.blocksReset_mode : ModeOk (s.blocksReset k img puts fl (.reset n p) o) := ⟨rfl, rfl⟩

theorem State.blocksReset_tracker (h : (img.getD .sample).Ranges) : TrackerOk (s.blocksReset k img puts fl (.reset n p) o) :=
  ⟨h.prescale, Nat.zero_lt_of_lt h.reader, Nat.zero_le _, List.forall_mem_nil _,
    ⟨List.forall_mem_nil _, List.forall_mem_nil _, .nil, fun ⟨_, he, _⟩ => absurd he List.not_mem_nil, List.nodup_nil⟩,
    ⟨Nat.zero_le _, List.forall_mem_nil _, .nil⟩⟩

end

/-- A reset leaves the invariant, whatever the state before it. -/
theorem Inv.takeReset (s : State) (k : ResetKind) (x : Sensors) : Inv (s.takeReset k x) := by
  unfold State.takeReset
  split
  · rename_i hi
    exact .of_parts (State.blocksReset_books ..) (State.blocksReset_mode ..) ⟨List.nodup_nil, List.nodup_nil, Nat.zero_le _⟩
      FloorForm.vacant_zero.ok hi.symm (State.blocksReset_tracker _ _ _ _ _ _ _ _ Image.ranges_sample)
  · rename_i i hi
    obtain ⟨-, hd⟩ := (buildImage_eq_some_iff _ _ _).1 hi
    have places : i.places = i.ports + i.lanePlaces := by
      subst hd
      rfl
    let s0 := s.blocksReset k (some i) (resetPuts i.puts x.puts) (.atReset i x) (.reset i.ports i.puts) (orphansAtReset i x)
    have claims : ClaimsOk s0 := by
      refine ⟨(FloorForm.atReset i x).nums, ?_, ?_⟩
      · change ([] ++ (Floor.atReset i x).ids).Nodup
        rw [Floor.atReset_ids]
        exact List.nodup_nil
      · change (Floor.atReset i x).heldCount + 0 ≤ i.places
        exact places ▸ Floor.atReset_heldCount_le i x
    have keep : ∀ {P : State → Prop}, KeepsFloor P → P s0 → P s0.route.grantRoom := fun h hs => h.grantRoom (h.route hs)
    have image : SameImage s0 s0.route.grantRoom := keep (SameImage.keeps s0).toKeepsFloor (.refl s0)
    exact .of_parts (keep BooksOk.keeps.toKeepsFloor (State.blocksReset_books ..))
      (keep ModeOk.keepsAll.toKeepsFloor (State.blocksReset_mode ..)) (keep ClaimsOk.keeps.toKeepsFloor claims)
      (FloorForm.route (s := s0) (.atReset i x)).grantRoom.ok (image.imageOk hi.symm)
      ((State.blocksReset_tracker _ _ _ _ _ _ _ _ (Image.ranges_of_build hi)).of_tracker image
        (keep (Keeps.trackerIs s0.tracker).toKeepsFloor rfl))

/-! ### Every command -/

/-- The waiting commands and the power lines are no part of the invariant. -/
theorem Inv.withPower {s : State} (h : Inv s) (p : Power) : Inv { s with power := p } :=
  .of_parts ⟨h.journal, h.queue, h.roster, h.panel⟩ ⟨h.mode.1, h.mode.2⟩ ⟨h.claims.1, h.claims.2, h.claims.3⟩ h.floor h.image
    (h.tracker.of_tracker ⟨rfl, rfl, rfl⟩ rfl)

theorem Inv.withPending {s : State} (h : Inv s) (p : List Instr) : Inv { s with pending := p } :=
  .of_parts ⟨h.journal, h.queue, h.roster, h.panel⟩ ⟨h.mode.1, h.mode.2⟩ ⟨h.claims.1, h.claims.2, h.claims.3⟩ h.floor h.image
    (h.tracker.of_tracker ⟨rfl, rfl, rfl⟩ rfl)

theorem Inv.stopCarriage {s : State} (h : Inv s) : Inv s.stopCarriage :=
  .of_parts (BooksOk.keepsAll.stop trivial h.books) ⟨h.mode.1, h.mode.2⟩ ⟨h.claims.1, h.claims.2, h.claims.3⟩ h.floor h.image
    (h.tracker.of_tracker ⟨rfl, rfl, rfl⟩ rfl)

theorem Inv.exec {s t : State} (h : Inv s) (c : Instr) (he : Machine.exec c s = .next t) : Inv t := by
  cases hc : resets c with
  | false =>
      have all : ∀ k ∈ changes c, (fun _ : Change => True) k := fun _ _ => trivial
      exact .of_parts (BooksOk.keepsAll.exec c hc all he h.books) (ModeOk.keepsAll.exec c hc all he h.mode)
        (ClaimsOk.keepsAll.exec c hc all he h.claims) (h.form.exec c hc he).ok
        (((SameImage.keepsAll s).exec c hc all he (.refl s)).imageOk h.image) (h.tracker.exec h.image.ranges c hc he)
  | true =>
      cases c with
      | coldReset x =>
          cases he
          split
          · exact h.withPower _
          · exact .takeReset _ _ _
      | warmReset x =>
          cases he
          split
          · exact .takeReset _ _ _
          · exact h.withPower _
      | supplyFall =>
          cases he
          exact h.stopCarriage.withPower _
      | resetAssertion =>
          cases he
          exact h.withPower _
      | _ => cases hc

/-- A millisecond of the clock on an empty queue keeps the invariant (logs 2 and 4). -/
theorem Inv.idle {s : State} (h : Inv s) : Inv s.idle :=
  have image := (SameImage.keepsAll s).idle trivial trivial (.refl s)
  .of_parts (BooksOk.keepsAll.idle trivial trivial h.books) (ModeOk.keepsAll.idle trivial trivial h.mode)
    (ClaimsOk.keepsAll.idle trivial trivial h.claims) h.form.idle.ok (image.imageOk h.image)
    (h.tracker.of_tracker image ((KeepsAll.trackerIs s.tracker).idle (by simp) (by simp) rfl))

end Sys2Proof.Machine

/-- Settles O59: a step is a millisecond of the clock or the front command, and both keep the invariant part by part. -/
theorem everyStepKeepsInvariant : Obligations.EveryStepKeepsInvariant := by
  intro s t h hs
  unfold step at hs
  split at hs
  · cases hs
    exact h.idle
  · exact (h.withPending _).exec _ hs

/-- The sensors with every place empty. -/
def clearSensors : Sensors := { lane := [], seats := [], releaseLane := [], puts := [] }

theorem takeReset_clearSensors : State.reset.takeReset .cold clearSensors = State.reset := rfl

/-- Settles O58: the state after reset is what a cold reset of it with every sensor empty leaves, and its Line Table is empty. -/
theorem invariantAtReset : Obligations.InvariantAtReset := by
  refine ⟨takeReset_clearSensors ▸ Inv.takeReset State.reset .cold clearSensors, ?_⟩
  have lines : State.reset.lines = [] := rfl
  have contests : State.reset.contests = [] := rfl
  have totes : State.reset.floor.allTotes = [] := rfl
  have task : State.reset.panel.task = none := rfl
  have ports : ∀ q ∈ State.reset.floor.ports, q.tote = none := by decide
  have lane : State.reset.floor.releaseLane = [] := rfl
  constructor
  case released =>
    refine ⟨fun q hq _ x hx => ?_, by simp [lane]⟩
    rw [ports q hq] at hx
    cases hx
  all_goals simp [lines, contests, totes, task]
end

section
/-! SUPPORT. Slots and distances, the encoder, the advance, the pitch history and the reader (01), and their statements. -/

open Sys2Proof Sys2Proof.Machine

namespace Sys2Proof.Machine

/-! ### Remainders -/

/-- The non-negative remainder of a difference, as the rule writes it (R2). -/
theorem subMod_int {l : Nat} (hl : 0 < l) (a b : Nat) : (subMod l a b : Int) = ((a : Int) - b) % l := by
  have below : b % l ≤ l := (Nat.mod_lt b hl).le
  have wrap : (a : Int) + (l - (b % l : Nat)) = (a - b) + l * ((b : Int) / l + 1) := by
    have := Int.emod_add_mul_ediv (b : Int) l
    push_cast
    linarith
  rw [subMod, Int.natCast_mod, Nat.cast_add, Nat.cast_sub below, wrap, Int.add_mul_emod_self_left]

theorem subMod_lt {l : Nat} (hl : 0 < l) (a b : Nat) : subMod l a b < l := Nat.mod_lt _ hl

/-! ### Commands on a bench that takes events -/

theorem taken_of_live {s : State} (h : s.live = true) (f : State → State) : taken f s = .next (f s) := by
  rw [taken, whenLive, if_pos h]

/-! ### Faults -/

/-- Nothing recorded in `a` has left the fault record of `s` (R173). -/
structure FaultsGrow (a : FaultRecord) (s : State) : Prop where
  sticky : ∀ k, maskHas a.sticky k = true → maskHas s.faults.sticky k = true
  first : ∀ f, a.first = some f → s.faults.first = some f

theorem FaultsGrow.refl (s : State) : FaultsGrow s.faults s := ⟨fun _ => id, fun _ => id⟩

theorem maskHas_stickyWith_of_has {m : BitVec 16} {k : FaultKind} (j : FaultKind) (h : maskHas m k = true) :
    maskHas (stickyWith m j) k = true := by
  rw [maskHas, stickyWith, BitVec.getLsbD_or, ← maskHas, h, Bool.true_or]

theorem maskHas_stickyWith_self (m : BitVec 16) (k : FaultKind) : maskHas (stickyWith m k) k = true := by
  have bit : (BitVec.ofNat 16 (2 ^ k.code)).getLsbD k.code = true := by cases k <;> decide
  rw [maskHas, stickyWith, BitVec.getLsbD_or, bit, Bool.or_true]

theorem FaultsGrow.keeps (a : FaultRecord) : Keeps (FaultsGrow a) where
  lines _ h := ⟨h.sticky, h.first⟩
  puts _ h := ⟨h.sticky, h.first⟩
  lanes _ h := ⟨h.sticky, h.first⟩
  floor _ _ h := ⟨h.sticky, h.first⟩
  panel _ _ h := ⟨h.sticky, h.first⟩
  write _ h := ⟨h.sticky, h.first⟩
  faults f h := ⟨fun k hk => maskHas_stickyWith_of_has _ (h.sticky k hk), fun g hg => by simp only [FaultRecord.add, h.first g hg]⟩
  enqueue _ h := ⟨h.sticky, h.first⟩
  closed _ _ h := ⟨h.sticky, h.first⟩
  contests _ _ h := ⟨h.sticky, h.first⟩
  roster _ _ h := ⟨h.sticky, h.first⟩
  withdraw _ h := ⟨h.sticky, h.first⟩

/-- What is no CLEAR_FAULTS takes no fault out of the record (R173, R175). -/
theorem FaultsGrow.keepsAll (a : FaultRecord) : KeepsAll (· ≠ .cleared) (FaultsGrow a) where
  toKeeps := FaultsGrow.keeps a
  enter _ _ _ _ _ _ h := ⟨h.sticky, h.first⟩
  fresh _ _ _ h := ⟨h.sticky, h.first⟩
  landing _ _ _ _ _ _ h := ⟨h.sticky, h.first⟩
  tracker _ _ _ h := ⟨h.sticky, h.first⟩
  clock _ _ _ h := ⟨h.sticky, h.first⟩
  received _ _ _ h := ⟨h.sticky, h.first⟩
  arrival _ _ _ h := ⟨h.sticky, h.first⟩
  act _ _ _ _ h := ⟨h.sticky, h.first⟩
  start _ _ _ _ _ _ h := ⟨h.sticky, h.first⟩
  stop _ _ h := ⟨h.sticky, h.first⟩
  carry _ _ h := ⟨h.sticky, h.first⟩
  fetched _ _ _ h := ⟨h.sticky, h.first⟩
  cleared k := absurd rfl k
  reopen _ _ h := ⟨h.sticky, h.first⟩
  soft _ _ n _ h := (FaultsGrow.keeps a).enterSoft (fun _ _ _ h => ⟨h.sticky, h.first⟩) (fun h => ⟨h.sticky, h.first⟩) n h
  hard _ _ n _ h := (FaultsGrow.keeps a).enterHard (fun _ _ _ h => ⟨h.sticky, h.first⟩) (fun h => ⟨h.sticky, h.first⟩) n h
  replace _ _ _ _ h := ⟨h.sticky, h.first⟩

/-- An advance keeps every fault that its closing window has recorded (R10). -/
theorem State.fullCount_faults (s : State) : FaultsGrow (s.updTracker fun x => { x with prescale := 0 }).closeWindow.faults s.fullCount :=
  have k := FaultsGrow.keepsAll (s.updTracker fun x => { x with prescale := 0 }).closeWindow.faults
  k.recordInterval (by simp) (k.ageApproach (by simp) (k.ageWatch (by simp) (k.movePhase (by simp) (.refl _))))

/-- A window that closes without a report records READ_FAIL (R10). -/
theorem State.closeWindow_faults {s : State} (h : s.tracker.readFlag = false) :
    s.closeWindow.faults = s.faults.add { kind := .readFail, seconds := s.now, place := s.readerSlot, bytes := [] } := by
  simp only [State.closeWindow, h, Bool.false_eq_true, if_false]
  rfl

/-! ### Pulses and intervals -/

theorem State.encoderPulse_below {s : State} (h : s.tracker.prescale + 1 < s.cfg.prescale) :
    s.encoderPulse = s.updTracker fun x => { x with prescale := x.prescale + 1 } := by
  rw [State.encoderPulse, if_neg (by omega)]

theorem State.encoderPulse_full {s : State} (h : s.cfg.prescale ≤ s.tracker.prescale + 1) : s.encoderPulse = s.fullCount := by
  rw [State.encoderPulse, if_pos h]

theorem State.fullCount_prescale (s : State) : s.fullCount.tracker.prescale = 0 := by
  obtain ⟨d, -, -, ht⟩ := s.fullCount_tracker
  rw [ht]
  rfl

theorem State.fullCount_history (s : State) :
    s.fullCount.tracker.history = match s.tracker.prevAdvance with
      | none => s.tracker.history
      | some p => addInterval s.tracker.history (min (s.ms - p) Config.intervalCap) := by
  obtain ⟨d, -, -, ht⟩ := s.fullCount_tracker
  rw [ht]
  rfl

theorem addInterval_below {h : List Nat} (hl : h.length < 16) (v : Nat) : addInterval h v = h ++ [v] := by
  rw [addInterval, Config.historyLength, show h.length + 1 - 16 = 0 by omega, List.drop_zero]

theorem addInterval_full {h : List Nat} (hl : h.length = 16) (v : Nat) : addInterval h v = h.drop 1 ++ [v] := by
  rw [addInterval, Config.historyLength, show h.length + 1 - 16 = 1 by omega, List.drop_append_of_le_length (by omega)]

/-- A home mark changes neither the prescale count nor the history (R3, R5). -/
theorem State.homeMark_counts (s : State) :
    s.homeMark.tracker.prescale = s.tracker.prescale ∧ s.homeMark.tracker.history = s.tracker.history := by
  rw [State.homeMark_tracker]
  split
  · exact ⟨rfl, rfl⟩
  · exact ⟨rfl, rfl⟩

theorem State.readerReport_prescale (s : State) (r : ReaderReport) : (s.readerReport r).tracker.prescale = s.tracker.prescale := by
  cases hf : s.tracker.readFlag with
  | true => rw [State.readerReport_discarded hf]
  | false =>
      rw [State.readerReport_tracker hf]
      rfl

end Sys2Proof.Machine

/-- Settles O6: each is the remainder of the rule's difference, by `subMod_int`. -/
theorem slotsAndDistancesAreRemainders : Obligations.SlotsAndDistancesAreRemainders := by
  intro s hl
  refine ⟨fun x => subMod_int hl _ _, subMod_int hl _ _, subMod_int hl _ _, fun slot => ⟨?_, subMod_lt hl _ _⟩⟩
  rw [State.distance, subMod_int hl, Nat.cast_add, sub_sub]

/-- Settles O7: a pulse below N is the count's own, the one at N is an advance; the other commands leave the count. -/
theorem encoderPulseCounts : Obligations.EncoderPulseCounts := by
  intro s hs
  have pulse : exec .encoderPulse s = .next s.encoderPulse := taken_of_live hs _
  have advance : exec .advance s = .next s.fullCount := taken_of_live hs _
  refine ⟨fun hp => ?_, fun hp => ⟨?_, _, advance, s.fullCount_prescale⟩, fun t hp ht => ?_, fun c t hc ht => ?_⟩
  · rw [pulse, State.encoderPulse_below hp]
    rfl
  · rw [pulse, advance, State.encoderPulse_full hp]
  · rw [pulse] at ht
    cases ht
    by_cases full : s.cfg.prescale ≤ s.tracker.prescale + 1
    · rw [State.encoderPulse_full full, State.fullCount_prescale]
      exact Nat.zero_lt_of_lt hp
    · rw [State.encoderPulse_below (not_le.1 full)]
      exact not_le.1 full
  · rcases hc with rfl | ⟨r, rfl⟩ | rfl
    · cases (taken_of_live hs State.homeMark).symm.trans ht
      exact s.homeMark_counts.1
    · cases (taken_of_live hs (State.readerReport r)).symm.trans ht
      exact s.readerReport_prescale r
    · cases (taken_of_live hs State.laneEntry).symm.trans ht
      rw [State.laneEntry_tracker]

/-- Settles O8: the tracker an advance leaves, and the READ_FAIL of its closing window, which no later part of it takes away. -/
theorem advanceMovesTheLoop : Obligations.AdvanceMovesTheLoop := by
  intro s hs
  obtain ⟨d, -, -, ht⟩ := s.fullCount_tracker
  refine ⟨s.fullCount, taken_of_live hs _, by rw [ht]; rfl, by rw [ht]; rfl, by rw [ht]; rfl, by rw [ht]; rfl, by rw [ht]; rfl,
    fun hf => ?_, fun hq => ?_⟩
  · have grown := s.fullCount_faults
    rw [State.closeWindow_faults (s := s.updTracker fun x => { x with prescale := 0 }) hf] at grown
    refine ⟨grown.sticky _ (maskHas_stickyWith_self _ _), fun none => grown.first _ ?_⟩
    simp only [FaultRecord.add, State.updTracker_fields, none]
    rfl
  · rw [ht]
    exact hq.passedOn_eq

/-- Settles O9: the history by its length, and the period by the history's. -/
theorem pitchHistoryAndPeriod : Obligations.PitchHistoryAndPeriod := by
  refine ⟨fun s hs => ⟨⟨s.fullCount, taken_of_live hs _, fun hp => ?_, fun p hp hl => ?_, fun p hp hl => ?_⟩, fun t ht => ?_⟩,
    fun s => ⟨fun hl => ?_, fun hl => ?_, rfl⟩⟩
  · rw [State.fullCount_history, hp]
  · rw [State.fullCount_history, hp]
    exact addInterval_below hl _
  · rw [State.fullCount_history, hp]
    exact addInterval_full hl _
  · cases (taken_of_live hs State.homeMark).symm.trans ht
    exact s.homeMark_counts.2
  · rw [State.pitch, Config.historyLength, if_pos hl]
  · rw [State.pitch, Config.historyLength, if_neg (by omega), clampNat_eq (by decide)]

/-- Settles O11: a report by the read flag and by what it says of the carrier. -/
theorem readerReportMakesEntry : Obligations.ReaderReportMakesEntry := by
  intro s hs
  have report : ∀ r, exec (.readerReport r) s = .next (s.readerReport r) := fun r => taken_of_live hs _
  refine ⟨fun r hf => ?_, fun hf => ⟨?_, ?_, fun t => ⟨fun hd => ?_, fun hd => ?_⟩⟩⟩
  · rw [report, State.readerReport_discarded hf]
  · rw [report, State.readerReport_empty hf]
    rfl
  · rw [report, State.readerReport_unreadable hf]
    rfl
  · rw [report, State.readerReport_duplicate hf (by simpa using hd)]
    rfl
  · have new : s.tracker.approach.any (fun e => e.id == some t) = false := by simpa using hd
    refine ⟨_, report _, ?_, fun hh => ?_⟩
    · rw [State.readerReport_tracker hf, State.reported, if_neg (by simp [new])]
      rfl
    · rw [State.readerReport_tote hf new, if_neg (by simp [hh])]
      rfl
end

section
/-! SUPPORT. What the Slot Tracker's events do to the contest table: slot passages and the lapse window (R79), reader marks and late takes (R74,
R75), diverts (R76), misses (R78) and landings (R77), and their statements. -/

open Sys2Proof Sys2Proof.Machine

namespace Sys2Proof.Machine

/-! ### Slot passages -/

/-- With totes that do not repeat, a record is the one found for its tote. -/
theorem State.contestOf_of_mem {s : State} (n : (s.contests.map (·.tote)).Nodup) {c : Contest} (hc : c ∈ s.contests) :
    s.contestOf c.tote = some c := by
  obtain ⟨d, hd⟩ : ∃ d, s.contestOf c.tote = some d :=
    Option.isSome_iff_exists.mp (List.find?_isSome.mpr ⟨c, hc, by simp⟩)
  obtain ⟨mem, tote⟩ := State.contestOf_some hd
  rw [hd, List.inj_on_of_nodup_map n mem hc tote]

/-- A lapse takes out the record of the tote where its window has closed with no read, and no other (R79). -/
theorem State.lapseIfDue_contests {s : State} (n : (s.contests.map (·.tote)).Nodup) (t : ToteId) :
    (s.lapseIfDue t).contests = s.contests.filter fun c => !(c.tote == t && c.lapseDue) := by
  unfold State.lapseIfDue
  split
  · rename_i none
    refine (List.filter_eq_self.2 fun c hc => ?_).symm
    have : c.tote ≠ t := by simpa using List.find?_eq_none.1 none c hc
    simp [this]
  · rename_i c hc
    obtain ⟨mem, rfl⟩ := State.contestOf_some hc
    have only : ∀ x ∈ s.contests, x.tote = c.tote → x = c := fun x hx e => List.inj_on_of_nodup_map n hx mem e
    split
    · rename_i due
      rw [State.endContest_contests]
      refine List.filter_congr fun x hx => ?_
      by_cases e : x.tote = c.tote
      · simp [only x hx e, due]
      · simp [bne, beq_false_of_ne e]
    · rename_i notDue
      refine (List.filter_eq_self.2 fun x hx => ?_).symm
      by_cases e : x.tote = c.tote
      · simp [only x hx e, notDue]
      · simp [e]

theorem State.lapses_contests (l : List ToteId) {s : State} (n : (s.contests.map (·.tote)).Nodup) :
    (l.foldl State.lapseIfDue s).contests = s.contests.filter fun c => !(decide (c.tote ∈ l) && c.lapseDue) := by
  induction l generalizing s with
  | nil => simp
  | cons t l ih =>
      have step := State.lapseIfDue_contests n t
      rw [List.foldl_cons, ih (step ▸ n.sublist (List.filter_sublist.map _)), step, List.filter_filter]
      refine List.filter_congr fun c _ => ?_
      by_cases e : c.tote = t <;> cases c.lapseDue <;> simp [e]

theorem passage_totes (slot : Nat) (cs : List Contest) : (cs.map (Contest.passage slot)).map (·.tote) = cs.map (·.tote) := by
  rw [List.map_map]
  exact List.map_congr_left fun c _ => Keeps.passage_tote slot c

theorem State.slotPassage_contests {s : State} (n : (s.contests.map (·.tote)).Nodup) (slot : Nat) :
    (s.slotPassage slot).contests = (s.contests.map (Contest.passage slot)).filter fun c => !c.lapseDue := by
  unfold State.slotPassage
  dsimp only
  rw [State.lapses_contests _ (passage_totes slot s.contests ▸ n)]
  refine List.filter_congr fun c hc => ?_
  rw [decide_eq_true (List.mem_map_of_mem (f := (·.tote)) hc), Bool.true_and]

/-- What a slot passage leaves of a record: the record passed, or none when its window closes with no read (R79). -/
def Contest.afterPassage (slot : Nat) (c : Contest) : Option Contest :=
  if (c.passage slot).lapseDue then none else some (c.passage slot)

theorem State.slotPassage_contestOf {s : State} (n : (s.contests.map (·.tote)).Nodup) (slot : Nat) {c : Contest} (hc : c ∈ s.contests) :
    (s.slotPassage slot).contestOf c.tote = c.afterPassage slot := by
  have contests := State.slotPassage_contests n slot
  have stays : ((s.slotPassage slot).contests.map (·.tote)).Nodup := by
    rw [contests]
    exact (passage_totes slot s.contests ▸ n).sublist (List.filter_sublist.map _)
  unfold Contest.afterPassage
  split
  · rename_i due
    refine State.contestOf_none fun d hd e => ?_
    rw [contests] at hd
    obtain ⟨hd, notDue⟩ := List.mem_filter.1 hd
    obtain ⟨x, hx, rfl⟩ := List.mem_map.1 hd
    rw [Keeps.passage_tote] at e
    rw [List.inj_on_of_nodup_map n hx hc e, due] at notDue
    cases notDue
  · rename_i notDue
    rw [← Keeps.passage_tote slot c]
    refine State.contestOf_of_mem stays ?_
    rw [contests]
    exact List.mem_filter.2 ⟨List.mem_map_of_mem hc, by simpa using notDue⟩

namespace Contest

variable {slot : Nat} {c : Contest}

theorem afterPassage_other (h1 : c.state ≠ .awaitingSlot) (h2 : c.state ≠ .lastChance) : c.afterPassage slot = some c := by
  cases h : c.state <;> simp_all [afterPassage, passage, lapseDue]

theorem afterPassage_announced (h : c.state = .awaitingSlot) (hs : c.slot = slot) :
    c.afterPassage slot = some { c with state := .lastChance, window := 0 } := by
  simp [afterPassage, passage, lapseDue, h, hs]

theorem afterPassage_waiting (h : c.state = .awaitingSlot) (hs : c.slot ≠ slot) : c.afterPassage slot = some c := by
  simp [afterPassage, passage, lapseDue, h, hs]

theorem afterPassage_counted (h : c.state = .lastChance) (hw : c.window = 0) : c.afterPassage slot = some { c with window := 1 } := by
  simp [afterPassage, passage, lapseDue, h, hw]

theorem afterPassage_lapsed (h : c.state = .lastChance) (hw : 1 ≤ c.window) (hr : c.readMark = false) : c.afterPassage slot = none := by
  by_cases w : c.window < 2
  · have : c.window = 1 := by omega
    simp [afterPassage, passage, lapseDue, h, this, hr]
  · simp [afterPassage, passage, lapseDue, h, w, hr, not_lt.1 w]

theorem afterPassage_read (h : c.state = .lastChance) (hw : 1 ≤ c.window) (hr : c.readMark = true) :
    c.afterPassage slot = some { c with window := max 2 c.window } := by
  by_cases w : c.window < 2
  · have : c.window = 1 := by omega
    simp [afterPassage, passage, lapseDue, h, this, hr]
  · have stays : c.passage slot = c := by simp [passage, h, w]
    rw [afterPassage, stays, if_neg (by simp [lapseDue, hr]), max_eq_right (not_lt.1 w)]

end Contest

/-- With no contest record a slot passage changes nothing. -/
theorem State.slotPassage_nil {s : State} (h : s.contests = []) (slot : Nat) : s.slotPassage slot = s := by
  simp only [State.slotPassage, h, List.map_nil, List.foldl_nil]
  rw [← h]

/-! ### Home mark -/

theorem State.homeMark_inPhase {s : State} (hh : s.tracker.homed = true) (hp : s.tracker.phase = s.cfg.reader) : s.homeMark = s := by
  rw [State.homeMark, if_pos hh, if_pos hp]

theorem State.homeMark_unhomed {s : State} (hh : s.tracker.homed = false) : s.homeMark = s.fixPhase := by
  rw [State.homeMark, if_neg (by simp [hh])]

theorem State.homeMark_slipped {s : State} (hh : s.tracker.homed = true) (hp : s.tracker.phase ≠ s.cfg.reader) :
    s.homeMark = (s.recordFault .phaseSlip s.readerSlot (BitVec.ofNat 32 s.tracker.phase) []).fixPhase := by
  rw [State.homeMark, if_pos hh, if_neg hp]

/-- A home mark that corrects the phase announces slot 0 to the contest table as it was (R8, R79). -/
theorem State.homeMark_announces {s : State} (h : s.tracker.homed = false ∨ s.tracker.phase ≠ s.cfg.reader) :
    ∃ u : State, u.contests = s.contests ∧ s.homeMark = u.slotPassage 0 := by
  cases hh : s.tracker.homed with
  | false => exact ⟨s.corrected, rfl, State.homeMark_unhomed hh⟩
  | true =>
      have hp := h.resolve_left (by simp [hh])
      exact ⟨State.corrected (s.recordFault ..), rfl, State.homeMark_slipped hh hp⟩

/-! ### Advance -/

/-- With nothing on the way to the divert point or to the lane, an advance changes the contest table by its slot passage alone (R4). -/
theorem State.fullCount_contests {s : State} (hh : s.tracker.homed = true) (ha : s.tracker.approach = []) (hw : s.tracker.watch = []) :
    ∃ u : State, u.contests = s.contests ∧ s.fullCount.contests =
      (u.slotPassage (subMod s.cfg.loopLength s.cfg.reader ((s.tracker.phase + 1) % s.cfg.loopLength))).contests := by
  let s1 := (s.updTracker fun x => { x with prescale := 0 }).closeWindow
  let u := s1.updTracker fun x => { x with phase := (x.phase + 1) % s1.cfg.loopLength }
  have tracker : s1.tracker = { s.tracker with prescale := 0, readFlag := false } := State.closeWindow_tracker _
  have cfg : s1.cfg = s.cfg := State.closeWindow_cfg _
  have contests : u.contests = s.contests := by
    change s1.contests = _
    simp only [s1, State.closeWindow]
    split <;> rfl
  have moved : s1.movePhase = u.slotPassage u.readerSlot := by
    have homed : u.tracker.homed = true := by simp [u, tracker, hh]
    change (if u.tracker.homed = true then _ else _) = _
    rw [if_pos homed]
  have passed : u.readerSlot = subMod s.cfg.loopLength s.cfg.reader ((s.tracker.phase + 1) % s.cfg.loopLength) := by
    change subMod s1.cfg.loopLength s1.cfg.reader ((s1.tracker.phase + 1) % s1.cfg.loopLength) = _
    rw [cfg, tracker]
  have quiet : ∀ v : State, v.tracker.watch = [] → v.tracker.approach = [] → v.ageWatch.ageApproach.contests = v.contests := by
    intro v watch approach
    have aged : v.ageWatch = v := by
      simp only [State.ageWatch, State.updTracker, watch, List.map_nil, List.length_nil, State.missUpTo]
      rw [Tracker.withWatch_self watch]
    rw [aged]
    simp [State.ageApproach, State.divertHead, approach]
  refine ⟨u, contests, ?_⟩
  rw [← passed, ← moved]
  refine quiet _ ?_ ?_
  · rw [State.movePhase_tracker, tracker]
    exact hw
  · rw [State.movePhase_tracker, tracker]
    exact ha

/-! ### Reader marks and late takes -/

theorem State.handReport_claimed {s : State} {t : ToteId} {c : Contest} (hc : s.contestOf t = some c) (h : c.state.claimed = true)
    (slot : Nat) : s.handReport t slot = s.updContest t fun x => { x with readMark := true } := by
  simp only [State.handReport, hc, h, if_true]

theorem State.handReport_unclaimed {s : State} {t : ToteId} {c : Contest} (hc : s.contestOf t = some c) (h : c.state.claimed = false)
    (slot : Nat) : s.handReport t slot = s := by
  simp only [State.handReport, hc, h, Bool.false_eq_true, if_false]

theorem State.handReport_stored {s : State} {t : ToteId} (hc : s.contestOf t = none) (h : s.toteStands t = true) (slot : Nat) :
    s.handReport t slot = s := by
  simp only [State.handReport, hc, h, if_true]

theorem State.handReport_new {s : State} {t : ToteId} (hc : s.contestOf t = none) (h : s.toteStands t = false) (slot : Nat) :
    s.handReport t slot = s.lateTake t slot := by
  simp only [State.handReport, hc, h, Bool.false_eq_true, if_false]

/-- No late take without a roster entry, with a holder, or with the round open (R75). -/
theorem State.lateTake_closed {s : State} {t : ToteId} (h : ∀ r, s.rosterOf t = some r → r.holder ≠ none ∨ s.ms < r.closeAt)
    (slot : Nat) : s.lateTake t slot = s := by
  unfold State.lateTake
  split
  · rfl
  · rename_i r hr
    refine if_neg ?_
    rcases h r hr with hh | hm
    · simp [hh]
    · simp [hm]

/-- A late take by its score (R75). -/
theorem State.lateTake_open {s : State} {t : ToteId} {r : RosterEntry} (hr : s.rosterOf t = some r) (hh : r.holder = none)
    (hm : r.closeAt ≤ s.ms) (slot : Nat) :
    s.lateTake t slot =
      if (s.bidForm (s.lateQuery r)).score = 0 then { s with lanes := (s.bidForm (s.lateQuery r)).lanes }
      else
        (State.enter { s with lanes := (s.bidForm (s.lateQuery r)).lanes }
          (s.lateRecord r slot (s.bidForm (s.lateQuery r)))).queueTake (s.lateRecord r slot (s.bidForm (s.lateQuery r))) := by
  simp only [State.lateTake, hr, hh, hm, Option.isNone_none, decide_true, Bool.and_self, if_true]

theorem ContestState.claimed_iff (st : ContestState) : st.claimed = true ↔ st = .awaitingSlot ∨ st = .lastChance := by
  cases st <;> simp [ContestState.claimed]

/-! ### Diverts, misses and landings -/

theorem State.divertHead_away {s : State} {e : ApproachEntry} {rest : List ApproachEntry} (ha : s.tracker.approach = e :: rest)
    (hr : e.remaining ≠ 0) : s.divertHead = s := by
  simp only [State.divertHead, ha, hr, if_false]

/-- The decision at the divert point: the entry leaves, and the divert fires for its target (R16). -/
theorem State.divertHead_decides {s : State} {e : ApproachEntry} {rest : List ApproachEntry} (ha : s.tracker.approach = e :: rest)
    (hr : e.remaining = 0) :
    s.divertHead = (s.divertTarget e).elim (s.updTracker fun x => { x with approach := rest }) fun t =>
      (s.updTracker fun x => { x with approach := rest }).fireDivert t e.slot := by
  simp only [State.divertHead, ha, hr, if_true]
  cases s.divertTarget e <;> rfl

/-- The divert fires on the tote of a claim on a HOMED bench (R16). -/
theorem State.divertTarget_claimed {s : State} {e : ApproachEntry} {t : ToteId} {c : Contest} (he : e.id = some t)
    (hh : s.tracker.homed = true) (hc : s.contestOf t = some c) (h : c.state = .awaitingSlot ∨ c.state = .lastChance) :
    s.divertTarget e = some t := by
  simp [State.divertTarget, he, hh, hc, (ContestState.claimed_iff _).2 h]

theorem State.divertTarget_none {s : State} {e : ApproachEntry}
    (h : s.tracker.homed = false ∨ e.id = none ∨
      ∃ t, e.id = some t ∧ ∀ c, s.contestOf t = some c → c.state ≠ .awaitingSlot ∧ c.state ≠ .lastChance) :
    s.divertTarget e = none := by
  rcases h with hh | he | ⟨t, he, hc⟩
  · simp [State.divertTarget, hh]
  · simp [State.divertTarget, he]
  · have unclaimed : (s.contestOf t).any (fun c => c.state.claimed) = false := by
      cases hf : s.contestOf t with
      | none => rfl
      | some c =>
          obtain ⟨h1, h2⟩ := hc c hf
          rw [Option.any_some, ← Bool.not_eq_true, ContestState.claimed_iff]
          simp [h1, h2]
    simp [State.divertTarget, he, unclaimed]

theorem State.missHead_young {s : State} {e : WatchEntry} {rest : List WatchEntry} (hw : s.tracker.watch = e :: rest) (ha : e.aged < 2) :
    s.missHead = s := by
  simp only [State.missHead, hw, not_le.2 ha, if_false]

/-- A miss of the head: it leaves the watch, DIVERT_MISS is recorded, and the miss is handed on (R20, R78). -/
theorem State.missHead_aged {s : State} {e : WatchEntry} {rest : List WatchEntry} (hw : s.tracker.watch = e :: rest) (ha : 2 ≤ e.aged) :
    s.missHead = ((s.withWatch rest).recordFault .divertMiss e.slot e.tote []).missTote e.tote e.slot := by
  simp only [State.missHead, hw, ha, if_true]
  rfl

theorem State.missTote_other {s : State} {t : ToteId} (h : ∀ c, s.contestOf t = some c → c.state ≠ .diverting) (slot : Nat) :
    s.missTote t slot = s := by
  unfold State.missTote
  split
  · rfl
  · rename_i c hc
    exact if_neg (by simpa using h c hc)

theorem State.missTote_diverting {s : State} {t : ToteId} {c : Contest} (hc : s.contestOf t = some c) (h : c.state = .diverting)
    (slot : Nat) : s.missTote t slot = s.endContest c .relinquished slot := by
  simp only [State.missTote, hc, h, beq_self_eq_true, if_true]

theorem State.laneEntry_nil {s : State} (hw : s.tracker.watch = []) : s.laneEntry = s := by
  simp only [State.laneEntry, hw]

theorem State.laneEntry_cons {s : State} {e : WatchEntry} {rest : List WatchEntry} (hw : s.tracker.watch = e :: rest) :
    s.laneEntry = (s.withWatch rest).confirmLanding e.tote := by
  simp only [State.laneEntry, hw]
  rfl

theorem State.confirmLanding_other {s : State} {t : ToteId} (h : ∀ c, s.contestOf t = some c → c.state ≠ .diverting) :
    s.confirmLanding t = s := by
  unfold State.confirmLanding
  split
  · rfl
  · rename_i c hc
    exact if_neg (by simpa using h c hc)

theorem State.confirmLanding_diverting {s : State} {t : ToteId} {c : Contest} (hc : s.contestOf t = some c) (h : c.state = .diverting) :
    s.confirmLanding t = s.land c := by
  simp only [State.confirmLanding, hc, h, beq_self_eq_true, if_true]

/-- The tote record a landing makes, its exposure by its class (R89, R90). -/
theorem Contest.toTote_eq (c : Contest) (now : Nat) :
    c.toTote now =
      { id := some c.tote, cls := some c.cls, comps := c.comps.map fun y => { sku := y.sku, qty := y.qty.toNat, emptied := false },
        exposure := if c.cls = .ambient then none else some (exposureAfter c.exposure c.heard now), landed := now, bound := c.bound,
        cause := none, spentTaken := false } := by
  cases h : c.cls <;> simp [Contest.toTote, TempClass.cold, h]

theorem Contest.toTote_exposure (c : Contest) (now : Nat) :
    (c.toTote now).exposure.getD 0 = if c.cls = .ambient then 0 else exposureAfter c.exposure c.heard now := by
  cases h : c.cls <;> simp [Contest.toTote, TempClass.cold, h]

end Sys2Proof.Machine

/-- Settles O10: the correction of the phase, and the passage of slot 0 that it announces, by the state of each record. -/
theorem homeMarkFixesPhase : Obligations.HomeMarkFixesPhase := by
  intro s hs
  have mark : exec .homeMark s = .next s.homeMark := taken_of_live hs _
  refine ⟨fun hh hp => ?_, fun hh => ⟨_, mark, ?_, fun none => ?_⟩, fun hh hp => ⟨_, mark, ?_, ?_, fun none => ?_⟩,
    fun h nodup => ⟨_, mark, fun c hc => ?_⟩⟩
  · rw [mark, State.homeMark_inPhase hh hp]
  · rw [State.homeMark_unhomed hh]
    exact s.fixPhase_tracker
  · rw [State.homeMark_unhomed hh]
    exact State.slotPassage_nil (s := s.corrected) none 0
  · rw [State.homeMark_slipped hh hp]
    exact State.fixPhase_tracker _
  · rw [State.homeMark_slipped hh hp, State.fixPhase_eq]
    have recorded := maskHas_stickyWith_self s.faults.sticky .phaseSlip
    exact ((FaultsGrow.keeps _).slotPassage 0 (FaultsGrow.refl _)).sticky _ recorded
  · rw [State.homeMark_slipped hh hp]
    exact State.slotPassage_nil (s := State.corrected (s.recordFault ..)) none 0
  · obtain ⟨u, contests, announced⟩ := State.homeMark_announces h
    rw [announced, State.slotPassage_contestOf (contests ▸ nodup) 0 (contests ▸ hc)]
    exact ⟨Contest.afterPassage_other, Contest.afterPassage_announced, Contest.afterPassage_waiting, Contest.afterPassage_counted,
      Contest.afterPassage_lapsed, Contest.afterPassage_read⟩

/-- Settles O21: the passage of the slot now at the reader, by the state of each record; and the lapse test by its three conditions. -/
theorem slotPassagesAndLapse : Obligations.SlotPassagesAndLapse := by
  refine ⟨fun s c hs hh ha hw nodup hc => ⟨_, taken_of_live hs _, ?_⟩,
    fun s t hs => ⟨fun none => ?_, fun c hc => ⟨fun h1 h2 h3 => ?_, fun h => ?_⟩⟩⟩
  · obtain ⟨u, contests, passed⟩ := State.fullCount_contests hh ha hw
    have after := State.slotPassage_contestOf (contests ▸ nodup)
      (subMod s.cfg.loopLength s.cfg.reader ((s.tracker.phase + 1) % s.cfg.loopLength)) (contests ▸ hc)
    rw [State.contestOf, passed, ← State.contestOf, after]
    refine ⟨Contest.afterPassage_announced, Contest.afterPassage_waiting, Contest.afterPassage_counted,
      fun h w r => Contest.afterPassage_lapsed h w.ge r, fun h w r => ?_⟩
    rw [Contest.afterPassage_read h w.ge r, w]
    rfl
  · refine (taken_of_live hs _).trans ?_
    simp only [State.lapseIfDue, none]
  · refine (taken_of_live hs _).trans ?_
    simp only [State.lapseIfDue, hc, Contest.lapseDue, h1, h2, h3, beq_self_eq_true, decide_true, Bool.not_false, Bool.and_self, if_true]
  · refine (taken_of_live hs _).trans ?_
    have notDue : c.lapseDue = false := by
      rcases h with h | h | h
      · simp [Contest.lapseDue, h]
      · simp [Contest.lapseDue, h]
      · simp [Contest.lapseDue, h]
    simp only [State.lapseIfDue, hc, notDue, Bool.false_eq_true, if_false]

/-- Settles O12: the report that made an entry, by what the contest table, the Tote Store and the roster hold of the tote. -/
theorem readerReportMarksOrTakesLate : Obligations.ReaderReportMarksOrTakesLate := by
  intro s t hs hh hf new
  have noEntry : s.tracker.approach.any (fun e => e.id == some t) = false := by simpa using new
  let s1 := s.withReport [s.readerEntry (some t)]
  have report : exec (.readerReport (.tote t)) s = .next (s1.handReport t s.readerSlot) := by
    refine (taken_of_live hs _).trans ?_
    rw [State.readerReport_tote hf noEntry, if_pos hh]
  refine ⟨fun c hc h => ?_, fun c hc h1 h2 => ?_, fun hc ht => ?_, fun hc hr => ?_, fun r hc ht hr hn hm => ?_⟩
  · rw [report, State.handReport_claimed (s := s1) hc ((ContestState.claimed_iff _).2 h)]
    rfl
  · have unclaimed : c.state.claimed = false := by
      rw [← Bool.not_eq_true, ContestState.claimed_iff]
      simp [h1, h2]
    rw [report, State.handReport_unclaimed (s := s1) hc unclaimed]
    rfl
  · rw [report, State.handReport_stored (s := s1) hc ht]
    rfl
  · cases ht : s.toteStands t with
    | true =>
        rw [report, State.handReport_stored (s := s1) hc ht]
        rfl
    | false =>
        rw [report, State.handReport_new (s := s1) hc ht, State.lateTake_closed (s := s1) hr]
        rfl
  · obtain rfl : r.tote = t := by simpa using List.find?_some hr
    rw [report, State.handReport_new (s := s1) hc ht, State.lateTake_open (s := s1) hr hn hm]
    refine ⟨fun hz => ?_, fun hz => ?_⟩
    · exact congrArg _ (if_pos hz)
    · exact congrArg _ (if_neg (Nat.one_le_iff_ne_zero.1 hz))

/-- Settles O13: the decision on the head of the queue, by its remaining count and its target. -/
theorem divertFiresOnClaimedTote : Obligations.DivertFiresOnClaimedTote := by
  intro s e rest hs ha
  have divert : exec .divert s = .next s.divertHead := taken_of_live hs _
  refine ⟨fun hr => ?_, fun t c hr he hh hc h => ?_, fun hr h => ?_⟩
  · rw [divert, State.divertHead_away ha hr]
  · rw [divert, State.divertHead_decides ha hr, State.divertTarget_claimed he hh hc h]
    rfl
  · rw [divert, State.divertHead_decides ha hr, State.divertTarget_none h]
    rfl

/-- Settles O14: the head of the landing watch missed or landed, by its age and by the record of its tote. -/
theorem landingOrMiss : Obligations.LandingOrMiss := by
  refine ⟨fun s e rest hs hw => ?_, fun s hs => ?_⟩
  · have miss : exec .divertMiss s = .next s.missHead := taken_of_live hs _
    refine ⟨fun ha => ?_, fun ha h => ?_, fun c ha hc h => ?_⟩
    · rw [miss, State.missHead_young hw ha]
    · rw [miss, State.missHead_aged hw ha, State.missTote_other (s := (s.withWatch rest).recordFault ..) h]
      rfl
    · have ended := (State.missHead_aged hw ha).trans 
        (State.missTote_diverting (s := (s.withWatch rest).recordFault ..) hc h e.slot)
      rw [miss, ended]
      refine ⟨rfl, fun t ht => ?_⟩
      cases ht
      rw [← (State.contestOf_some hc).2]
      exact State.endContest_gone _ _ _ _
  · have entry : exec .laneEntry s = .next s.laneEntry := taken_of_live hs _
    refine ⟨fun hw => ?_, fun e rest hw h => ?_, fun e rest c hw hc h => ?_⟩
    · rw [entry, State.laneEntry_nil hw]
    · rw [entry, State.laneEntry_cons hw, State.confirmLanding_other (s := s.withWatch rest) h]
      rfl
    · rw [entry, State.laneEntry_cons hw, State.confirmLanding_diverting (s := s.withWatch rest) hc h]
      dsimp only
      rw [← Contest.toTote_eq, ← Contest.toTote_exposure c s.now]
      rfl
end

section
/-! SUPPORT. What a reset leaves (R188): the orphans routed and granted room from the floor as the sensors read it (R91, R122), the room a warm
reset makes in the journal (R169), and the statement. -/

open Sys2Proof Sys2Proof.Machine

namespace Sys2Proof.Machine

/-! ### Occupied seats, counted from the lowest -/

/-- The occupied seats among the first `k`. -/
def seatsBefore (seat : Nat → Bool) (k : Nat) : Nat := ((List.range k).filter seat).length

theorem seatsBefore_zero (seat : Nat → Bool) : seatsBefore seat 0 = 0 := rfl

theorem seatsBefore_succ (seat : Nat → Bool) (k : Nat) : seatsBefore seat (k + 1) = seatsBefore seat k + if seat k then 1 else 0 := by
  rw [seatsBefore, List.range_succ, List.filter_append, List.length_append, ← seatsBefore]
  cases h : seat k <;> simp [h]

theorem seatsBefore_le (seat : Nat → Bool) (k : Nat) : seatsBefore seat k ≤ k :=
  (List.length_filter_le seat (List.range k)).trans List.length_range.le

theorem seatsBefore_mono (seat : Nat → Bool) {j k : Nat} (h : j ≤ k) : seatsBefore seat j ≤ seatsBefore seat k := by
  induction h with
  | refl => exact le_rfl
  | step _ ih =>
      rw [seatsBefore_succ]
      omega

/-- Between two places the empty seats are counted too. -/
theorem emptiesBefore_mono (seat : Nat → Bool) {j k : Nat} (h : j ≤ k) : j - seatsBefore seat j ≤ k - seatsBefore seat k := by
  induction h with
  | refl => exact le_rfl
  | step _ ih =>
      rename_i k _
      have := seatsBefore_le seat k
      rw [seatsBefore_succ]
      split <;> omega

theorem seatsBefore_lt (seat : Nat → Bool) {j k : Nat} (h : j < k) (hs : seat j = true) : seatsBefore seat j < seatsBefore seat k := by
  have := seatsBefore_mono seat (Nat.succ_le_of_lt h)
  rw [seatsBefore_succ, if_pos hs] at this
  omega

theorem emptiesBefore_lt (seat : Nat → Bool) {j k : Nat} (h : j < k) (hs : seat j = false) :
    j - seatsBefore seat j < k - seatsBefore seat k := by
  have below := seatsBefore_le seat j
  have step := emptiesBefore_mono seat (Nat.succ_le_of_lt h)
  rw [seatsBefore_succ, if_neg (by simp [hs])] at step
  omega

/-- Occupied sensors among the first `n`, counted place by place. -/
theorem occupiedCount_eq (n : Nat) (xs : List Bool) : occupiedCount n xs = seatsBefore (fun k => xs.getD k false) n := by
  induction n with
  | zero => simp [occupiedCount, seatsBefore_zero]
  | succ n ih =>
      rw [seatsBefore_succ, ← ih, occupiedCount, List.take_add_one, List.countP_append, ← occupiedCount, List.getD_eq_getElem?_getD]
      cases xs[n]? with
      | none => simp
      | some b => cases b <;> simp

/-! ### The floor on its way from the sensors to the end of the reset -/

/-- The port of place `k` once `r` lane orphans have been routed, their timers set to `d`, and `g` seated orphans granted room. -/
def resetPort (seat : Nat → Bool) (d r g k : Nat) : Port :=
  if seat k then
    { num := k + 1, state := if seatsBefore seat k < g then .releasing else .releaseWait, tote := some Tote.seatedOrphan
      seatTimer := none, occupied := true, routerStrokes := 0, releaseStrokes := if seatsBefore seat k < g then 1 else 0 }
  else if k - seatsBefore seat k < r then
    { num := k + 1, state := .inbound, tote := some Tote.newOrphan, seatTimer := some d, occupied := false, routerStrokes := 1
      releaseStrokes := 0 }
  else
    { num := k + 1, state := .vacant, tote := none, seatTimer := none, occupied := false, routerStrokes := 0, releaseStrokes := 0 }

/-- The ports of occupied places that have not been granted room, in order. -/
def resetWaiting (n : Nat) (seat : Nat → Bool) (g : Nat) : List Nat :=
  ((List.range n).filter fun k => seat k && decide (g ≤ seatsBefore seat k)).map (· + 1)

/-- The floor of `n` ports with `m` orphans in the lane and `u` markers in the release lane, after `r` routings and `g` grants. -/
def resetFloor (n : Nat) (seat : Nat → Bool) (d u m r g : Nat) : Floor :=
  { lane := List.replicate m Tote.newOrphan, ports := (List.range n).map (resetPort seat d r g), presentation := []
    releaseWait := resetWaiting n seat g, releaseLane := List.replicate u none }

section
variable (n : Nat) (seat : Nat → Bool) (d u m r g : Nat)

@[simp] theorem resetPort_num (k : Nat) : (resetPort seat d r g k).num = k + 1 := by
  unfold resetPort
  split
  · rfl
  · split <;> rfl

theorem resetPort_routable (k : Nat) :
    ((resetPort seat d r g k).state == .vacant && !(resetPort seat d r g k).occupied) =
      (!seat k && decide (r ≤ k - seatsBefore seat k)) := by
  unfold resetPort
  cases hs : seat k
  · by_cases hr : k - seatsBefore seat k < r
    · simp [hr, not_le.2 hr]
    · simp [hr, not_lt.1 hr]
  · simp

theorem resetPort_releasing (k : Nat) :
    ((resetPort seat d r g k).state == .releasing) = (seat k && decide (seatsBefore seat k < g)) := by
  unfold resetPort
  cases hs : seat k
  · simp only [Bool.false_eq_true, if_false, Bool.false_and]
    split <;> rfl
  · by_cases hg : seatsBefore seat k < g <;> simp [hg]

theorem resetPort_holds (k : Nat) :
    (resetPort seat d r g k).tote.isSome = (seat k || decide (k - seatsBefore seat k < r)) := by
  unfold resetPort
  cases hs : seat k
  · by_cases hr : k - seatsBefore seat k < r <;> simp [hr]
  · simp

theorem resetFloor_portNums : (resetFloor n seat d u m r g).portNums = (List.range n).map (· + 1) := by
  rw [Floor.portNums, resetFloor, List.map_map]
  exact List.map_congr_left fun k _ => resetPort_num seat d r g k

/-- One port's change on such a floor. -/
theorem resetPorts_upd {r' g' j : Nat} (f : Port → Port) (at' : f (resetPort seat d r g j) = resetPort seat d r' g' j)
    (others : ∀ k, k < n → k ≠ j → resetPort seat d r g k = resetPort seat d r' g' k) :
    ((List.range n).map (resetPort seat d r g)).map (fun q => if q.num == j + 1 then f q else q) =
      (List.range n).map (resetPort seat d r' g') := by
  rw [List.map_map]
  refine List.map_congr_left fun k hk => ?_
  by_cases e : k = j
  · subst e
    simpa using at'
  · simpa [e] using others k (List.mem_range.1 hk) e

theorem resetFloor_releasing : (resetFloor n seat d u m r g).releasing = min g (seatsBefore seat n) := by
  change ((List.range n).map (resetPort seat d r g)).countP _ = _
  rw [List.countP_map]
  induction n with
  | zero => simp [seatsBefore_zero]
  | succ n ih =>
      rw [List.range_succ, List.countP_append, ih, seatsBefore_succ, List.countP_singleton, Function.comp_apply,
        resetPort_releasing]
      cases seat n
      · simp
      · by_cases hg : seatsBefore seat n < g
        · simp [hg]
          omega
        · simp [hg]
          omega

theorem resetFloor_heldCount :
    (resetFloor n seat d u m r g).heldCount = m + (seatsBefore seat n + min r (n - seatsBefore seat n)) := by
  have ports : ((List.range n).map (resetPort seat d r g)).countP (·.tote.isSome) =
      seatsBefore seat n + min r (n - seatsBefore seat n) := by
    rw [List.countP_map]
    induction n with
    | zero => simp [seatsBefore_zero]
    | succ n ih =>
        have := seatsBefore_le seat n
        rw [List.range_succ, List.countP_append, ih, seatsBefore_succ, List.countP_singleton, Function.comp_apply, resetPort_holds]
        cases seat n
        · by_cases hr : n - seatsBefore seat n < r <;> simp [hr] <;> omega
        · simp
          omega
  rw [Floor.heldCount_eq, ← ports]
  exact congrArg (· + _) List.length_replicate

/-- The lowest place that routing has not filled, where one is left. -/
theorem exists_free_place (hr : r < n - seatsBefore seat n) : ∃ j < n, seat j = false ∧ j - seatsBefore seat j = r := by
  induction n with
  | zero => simp at hr
  | succ n ih =>
      have := seatsBefore_le seat n
      by_cases below : r < n - seatsBefore seat n
      · obtain ⟨j, hj, h⟩ := ih below
        exact ⟨j, by omega, h⟩
      · rw [seatsBefore_succ] at hr
        cases hs : seat n
        · rw [hs] at hr
          simp only [Bool.false_eq_true, if_false] at hr
          exact ⟨n, by omega, hs, by omega⟩
        · rw [hs] at hr
          simp only [if_true] at hr
          omega

theorem resetWaiting_succ :
    resetWaiting (n + 1) seat g = resetWaiting n seat g ++ if seat n && decide (g ≤ seatsBefore seat n) then [n + 1] else [] := by
  rw [resetWaiting, List.range_succ, List.filter_append, List.map_append, ← resetWaiting]
  congr 1
  cases h : seat n && decide (g ≤ seatsBefore seat n) <;> simp [h]

theorem resetWaiting_nil (hg : seatsBefore seat n ≤ g) : resetWaiting n seat g = [] := by
  rw [resetWaiting, List.map_eq_nil_iff, List.filter_eq_nil_iff]
  intro k hk
  cases hs : seat k
  · simp
  · have := seatsBefore_lt seat (List.mem_range.1 hk) hs
    simp
    omega

/-- The lowest place that has not been granted room, where one is left, stands at the head. -/
theorem resetWaiting_cons (hg : g < seatsBefore seat n) :
    ∃ j < n, seat j = true ∧ seatsBefore seat j = g ∧ resetWaiting n seat g = (j + 1) :: resetWaiting n seat (g + 1) := by
  induction n with
  | zero => simp [seatsBefore_zero] at hg
  | succ n ih =>
      by_cases below : g < seatsBefore seat n
      · obtain ⟨j, hj, hs, hb, e⟩ := ih below
        refine ⟨j, by omega, hs, hb, ?_⟩
        have before : g ≤ seatsBefore seat n := below.le
        rw [resetWaiting_succ, e, resetWaiting_succ, List.cons_append]
        simp only [before, Nat.succ_le_of_lt below, decide_true]
      · rw [seatsBefore_succ] at hg
        cases hs : seat n
        · rw [hs] at hg
          simp only [Bool.false_eq_true, if_false] at hg
          omega
        · rw [hs, if_pos rfl] at hg
          have eq : seatsBefore seat n = g := by omega
          refine ⟨n, Nat.lt_succ_self n, hs, eq, ?_⟩
          rw [resetWaiting_succ, resetWaiting_succ, resetWaiting_nil n seat g eq.le, resetWaiting_nil n seat (g + 1) (by omega)]
          simp [hs, eq]

theorem resetWaiting_length : (resetWaiting n seat 0).length = seatsBefore seat n := by
  simp [resetWaiting, seatsBefore]

/-! ### Routing (R102) -/

/-- An orphan in the lane and an empty place left: the lowest such place takes it. -/
theorem resetFloor_routeHead (hr : r < n - seatsBefore seat n) :
    (resetFloor n seat d u (m + 1) r g).routeHead d = resetFloor n seat d u m (r + 1) g := by
  obtain ⟨j, hj, hs, hb⟩ := exists_free_place n seat r hr
  have routable : (resetFloor n seat d u (m + 1) r g).routable = some (resetPort seat d r g j) := by
    change ((List.range n).map (resetPort seat d r g)).find? _ = _
    rw [List.find?_map]
    simp only [Function.comp_def, resetPort_routable, Option.map_eq_some_iff]
    refine ⟨j, List.find?_range_eq_some.2 ⟨by simp [hs, hb], List.mem_range.2 hj, fun i hi => ?_⟩, rfl⟩
    cases hsi : seat i
    · have := emptiesBefore_lt seat hi hsi
      simp
      omega
    · simp
  have ports : ((List.range n).map (resetPort seat d r g)).map (fun q => if q.num == j + 1 then
      { q with state := .inbound, tote := some Tote.newOrphan, seatTimer := some d, routerStrokes := q.routerStrokes + 1 } else q) =
      (List.range n).map (resetPort seat d (r + 1) g) := by
    refine resetPorts_upd n seat d r g _ ?_ fun k hk e => ?_
    · simp [resetPort, hs, hb]
    · cases hsk : seat k
      · have differ : k - seatsBefore seat k ≠ r := by
          rcases Nat.lt_or_gt_of_ne e with h | h
          · have := emptiesBefore_lt seat h hsk
            omega
          · have := emptiesBefore_lt seat h hs
            omega
        have same : k - seatsBefore seat k < r + 1 ↔ k - seatsBefore seat k < r := by omega
        simp only [resetPort, hsk, same]
      · simp only [resetPort, hsk, if_true]
  unfold Floor.routeHead
  rw [routable]
  simp only [resetFloor, List.replicate_succ, Floor.updPort, resetPort_num, ports]

/-- Without an orphan in the lane, or without an empty place, nothing is routed. -/
theorem resetFloor_routeHead_done (h : m = 0 ∨ n - seatsBefore seat n ≤ r) :
    (resetFloor n seat d u m r g).routeHead d = resetFloor n seat d u m r g := by
  unfold Floor.routeHead
  rcases h with rfl | h
  · rfl
  · have routable : (resetFloor n seat d u m r g).routable = none := by
      refine List.find?_eq_none.2 fun q hq => ?_
      obtain ⟨k, hk, rfl⟩ := List.mem_map.1 hq
      rw [resetPort_routable]
      cases hs : seat k
      · have := emptiesBefore_lt seat (List.mem_range.1 hk) hs
        simp
        omega
      · simp
    rw [routable]
    split
    · cases ‹none = some _›
    · rfl

/-- Routing at a reset: each orphan to an empty place while both last. -/
theorem resetFloor_routeUpTo (c : Nat) (hr : r ≤ n - seatsBefore seat n) :
    (resetFloor n seat d u m r g).routeUpTo c d =
      resetFloor n seat d u (m - min c (n - seatsBefore seat n - r)) (r + min c (min m (n - seatsBefore seat n - r))) g := by
  induction c generalizing m r with
  | zero => simp [Floor.routeUpTo]
  | succ c ih =>
      rw [Floor.routeUpTo]
      by_cases h : m = 0 ∨ n - seatsBefore seat n ≤ r
      · rw [resetFloor_routeHead_done n seat d u m r g h, ih _ _ hr]
        congr 1 <;> omega
      · obtain ⟨m, rfl⟩ := Nat.exists_eq_succ_of_ne_zero (not_or.1 h).1
        rw [Nat.succ_eq_add_one, resetFloor_routeHead n seat d u m r g (not_le.1 (not_or.1 h).2), ih _ _ (by omega)]
        congr 1 <;> omega

/-! ### Granting (R113) -/

/-- A seated orphan left and room in the release lane: the lowest such place is granted it. -/
theorem State.grantHead_reset (s : State) (hs : s.floor = resetFloor n seat d u m r g) (hg : g < seatsBefore seat n) (hu : u + g < 2) :
    s.grantHead = { s with floor := resetFloor n seat d u m r (g + 1) } := by
  obtain ⟨j, hj, hsj, hb, waiting⟩ := resetWaiting_cons n seat g hg
  have nums : (resetFloor n seat d u m r g).portNums.Nodup := resetFloor_portNums n seat d u m r g ▸ range_succ_nodup n
  have head : s.floor.releaseWait = (j + 1) :: resetWaiting n seat (g + 1) := by rw [hs, ← waiting]; rfl
  have room : s.hasRoom = true := by
    have releasing := resetFloor_releasing n seat d u m r g
    rw [State.hasRoom, hs, decide_eq_true_eq, ← Floor.releasing, releasing]
    change (List.replicate u none).length + _ < 2
    rw [List.length_replicate]
    omega
  have found : ({ s.floor with releaseWait := resetWaiting n seat (g + 1) } : Floor).port (j + 1) = some (resetPort seat d r g j) := by
    change s.floor.ports.find? _ = _
    rw [hs]
    change ((List.range n).map (resetPort seat d r g)).find? _ = _
    rw [List.find?_map, Option.map_eq_some_iff]
    refine ⟨j, List.find?_range_eq_some.2 ⟨by simp, List.mem_range.2 hj, fun i hi => ?_⟩, rfl⟩
    simp
    omega
  have occupied : (resetPort seat d r g j).occupied = true := by simp [resetPort, hsj]
  have ports : ((List.range n).map (resetPort seat d r g)).map (fun q => if q.num == j + 1 then
      { q with state := .releasing, releaseStrokes := q.releaseStrokes + 1 } else q) =
      (List.range n).map (resetPort seat d r (g + 1)) := by
    refine resetPorts_upd n seat d r g _ ?_ fun k hk e => ?_
    · simp [resetPort, hsj, hb]
    · cases hsk : seat k
      · simp only [resetPort, hsk, Bool.false_eq_true, if_false]
      · have differ : seatsBefore seat k ≠ g := by
          rcases Nat.lt_or_gt_of_ne e with h | h
          · have := seatsBefore_lt seat h hsk
            omega
          · have := seatsBefore_lt seat h hsj
            omega
        have same : seatsBefore seat k < g + 1 ↔ seatsBefore seat k < g := by omega
        simp only [resetPort, hsk, same]
  unfold State.grantHead
  rw [head]
  simp only [room, if_true, State.grantTo, found, occupied]
  simp only [State.updPort, Floor.updPort, hs, resetFloor, ports]

/-- Without a seated orphan left, or without room, no grant is made. -/
theorem State.grantHead_reset_done (s : State) (hs : s.floor = resetFloor n seat d u m r g) (hg : g ≤ seatsBefore seat n)
    (h : seatsBefore seat n ≤ g ∨ 2 ≤ u + g) : s.grantHead = s := by
  unfold State.grantHead
  split
  · rfl
  · rename_i p rest hw
    refine if_neg ?_
    rcases h with h | h
    · rw [hs] at hw
      cases hw.symm.trans (resetWaiting_nil n seat g h)
    · have releasing := resetFloor_releasing n seat d u m r g
      rw [State.hasRoom, hs, decide_eq_true_eq, ← Floor.releasing, releasing]
      change ¬(List.replicate u none).length + _ < 2
      rw [List.length_replicate]
      omega

/-- Granting at a reset: room to each seated orphan while it lasts. -/
theorem State.grantUpTo_reset (c : Nat) (s : State) (hs : s.floor = resetFloor n seat d u m r g) (hg : g ≤ seatsBefore seat n) :
    s.grantUpTo c = { s with floor := resetFloor n seat d u m r (g + min c (min (seatsBefore seat n - g) (2 - u - g))) } := by
  induction c generalizing s g with
  | zero =>
      rw [Nat.zero_min, Nat.add_zero, ← hs]
      rfl
  | succ c ih =>
      rw [State.grantUpTo]
      by_cases h : seatsBefore seat n ≤ g ∨ 2 ≤ u + g
      · rw [State.grantHead_reset_done n seat d u m r g s hs hg h, ih _ _ hs hg]
        congr 2
        omega
      · obtain ⟨h1, h2⟩ := not_or.1 h
        rw [State.grantHead_reset n seat d u m r g s hs (not_le.1 h1) (not_le.1 h2), ih _ _ rfl (by omega)]
        congr 2
        omega

end

end Sys2Proof.Machine
end

section
/-! SUPPORT. The room a warm reset makes in the journal (R169), the state either reset leaves, and the statement. -/

open Sys2Proof Sys2Proof.Machine

namespace Sys2Proof.Machine

/-! ### Room in the journal -/

theorem excessEntries_le (need : Nat) (es : List Entry) : excessEntries need es ≤ es.length := by
  induction es with
  | nil => exact le_rfl
  | cons e es ih =>
      unfold excessEntries
      split
      · exact Nat.zero_le _
      · exact Nat.succ_le_succ ih

/-- No entry goes where the room is there. -/
theorem excessEntries_eq_zero {need : Nat} {es : List Entry} (h : need ≤ Config.journalWords - (es.map Entry.size).sum) :
    excessEntries need es = 0 := by
  cases es with
  | nil => rfl
  | cons e es => exact if_pos h

/-- What stays leaves the room. -/
theorem excessEntries_room {need : Nat} (hn : need ≤ Config.journalWords) (es : List Entry) :
    need ≤ Config.journalWords - ((es.drop (excessEntries need es)).map Entry.size).sum := by
  induction es with
  | nil => exact hn
  | cons e es ih =>
      unfold excessEntries
      split
      · assumption
      · exact ih

/-- With one entry less removed the room would not be there. -/
theorem excessEntries_least {need k : Nat} {es : List Entry} (h : k < excessEntries need es) :
    Config.journalWords - ((es.drop k).map Entry.size).sum < need := by
  induction es generalizing k with
  | nil => cases h
  | cons e es ih =>
      unfold excessEntries at h
      split at h
      · cases h
      · cases k with
        | zero => exact not_le.1 ‹_›
        | succ k => exact ih (Nat.lt_of_succ_lt_succ h)

/-- The entries a warm reset removes for `o` orphans. -/
def Journal.excess (j : Journal) (o : Nat) : Nat := excessEntries (Config.orphanWords * o) j.entries

theorem Journal.excess_le (j : Journal) (o : Nat) : j.excess o ≤ j.entries.length := excessEntries_le _ _

theorem Journal.afterWarmReset_entries (j : Journal) (o : Nat) : (j.afterWarm o).entries = j.entries.drop (j.excess o) := rfl

theorem Journal.afterWarmReset_oldest (j : Journal) (o : Nat) : (j.afterWarm o).oldest = j.oldest + BitVec.ofNat 32 (j.excess o) := by
  change j.oldest + BitVec.ofNat 32 (min (j.excess o) j.entries.length) = _
  rw [min_eq_left (j.excess_le o)]

theorem Journal.afterWarmReset_bound (j : Journal) (o : Nat) :
    (j.afterWarm o).bound = decide ((j.afterWarm o).free < Config.journalReserve) := rfl

/-- Without orphans a warm reset keeps every entry. -/
theorem Journal.afterWarmReset_none (j : Journal) :
    j.afterWarm 0 =
      { entries := j.entries, oldest := j.oldest, lastTime := none, bound := decide (j.free < Config.journalReserve) } := by
  have allStay : j.excess 0 = 0 := excessEntries_eq_zero (Nat.zero_le _)
  change { j.drop (j.excess 0) with lastTime := none } = _
  rw [allStay, Journal.drop, List.drop_zero, Nat.zero_min, BitVec.add_zero]
  rfl

/-! ### The floor either reset leaves -/

/-- Whether the seat of place `k` reads occupied. -/
def seatOccupied (x : Sensors) (k : Nat) : Bool := x.seats.getD k false

/-- The floor as the sensors read it, in the terms of its way through routing and grants. -/
theorem Floor.atReset_eq (i : Image) (x : Sensors) (d : Nat) :
    Floor.atReset i x = resetFloor i.ports (seatOccupied x) d (occupiedCount Config.releaseLanePlaces x.releaseLane)
      (occupiedCount i.lanePlaces x.lane) 0 0 := by
  have ports : resetPorts i.ports x.seats = (List.range i.ports).map (resetPort (seatOccupied x) d 0 0) := by
    refine List.map_congr_left fun k _ => ?_
    change Port.atReset (k + 1) (seatOccupied x k) = resetPort (seatOccupied x) d 0 0 k
    cases h : seatOccupied x k <;> simp [Port.atReset, resetPort, h]
  have waiting : ((resetPorts i.ports x.seats).filter (·.occupied)).map (·.num) = resetWaiting i.ports (seatOccupied x) 0 := by
    rw [resetPorts, List.filter_map, List.map_map, resetWaiting]
    refine congrArg₂ _ rfl (List.filter_congr fun k _ => ?_)
    change seatOccupied x k = _
    simp
  simp only [Floor.atReset, resetFloor, waiting]
  rw [ports]

/-- The floor after routing and grants: orphans at the empty places while both last, room granted while it lasts. -/
def Floor.afterReset (i : Image) (x : Sensors) : Floor :=
  resetFloor i.ports (seatOccupied x) (1000 * i.seatTimeout) (occupiedCount Config.releaseLanePlaces x.releaseLane)
    (occupiedCount i.lanePlaces x.lane - (i.ports - seatsBefore (seatOccupied x) i.ports))
    (min (occupiedCount i.lanePlaces x.lane) (i.ports - seatsBefore (seatOccupied x) i.ports))
    (min (seatsBefore (seatOccupied x) i.ports) (2 - occupiedCount Config.releaseLanePlaces x.releaseLane))

section
variable (s : State) (k : ResetKind) (i : Image) (x : Sensors) (puts : List Put) (panel : Panel) (o : Nat)

/-- Routing at a reset: orphans leave the lane for the empty places. -/
theorem State.blocksReset_routed :
    (s.blocksReset k (some i) puts (.atReset i x) panel o).route.floor =
      resetFloor i.ports (seatOccupied x) (1000 * i.seatTimeout) (occupiedCount Config.releaseLanePlaces x.releaseLane)
        (occupiedCount i.lanePlaces x.lane - (i.ports - seatsBefore (seatOccupied x) i.ports))
        (min (occupiedCount i.lanePlaces x.lane) (i.ports - seatsBefore (seatOccupied x) i.ports)) 0 := by
  have count : (Floor.atReset i x).ports.length = i.ports := by
    change ((List.range i.ports).map _).length = _
    rw [List.length_map, List.length_range]
  have seats := seatsBefore_le (seatOccupied x) i.ports
  change (Floor.atReset i x).routeUpTo (Floor.atReset i x).ports.length (0 + 1000 * i.seatTimeout) = _
  rw [count, Nat.zero_add, Floor.atReset_eq i x (1000 * i.seatTimeout), resetFloor_routeUpTo _ _ _ _ _ _ _ _ (Nat.zero_le _)]
  congr 1 <;> omega

/-- What routing and granting make of the bench at a reset. -/
theorem State.blocksReset_settles :
    (s.blocksReset k (some i) puts (.atReset i x) panel o).route.grantRoom =
      s.blocksReset k (some i) puts (.afterReset i x) panel o := by
  have routed := s.blocksReset_routed k i x puts panel o
  change State.grantUpTo _ (s.blocksReset k (some i) puts (.atReset i x) panel o).route = _
  rw [routed, show (resetFloor _ _ _ _ _ _ _).releaseWait.length = _ from resetWaiting_length _ _,
    State.grantUpTo_reset _ _ _ _ _ _ _ _ _ routed (Nat.zero_le _)]
  refine congrArg (s.blocksReset k (some i) puts · panel o) (?_ : resetFloor _ _ _ _ _ _ _ = Floor.afterReset i x)
  rw [Floor.afterReset]
  congr 1
  omega

end

theorem State.takeReset_configured {s : State} {i : Image} (hi : buildImage s.straps s.memory = some i) (k : ResetKind) (x : Sensors) :
    s.takeReset k x =
      s.blocksReset k (some i) (resetPuts i.puts x.puts) (.afterReset i x) (.reset i.ports i.puts) (orphansAtReset i x) := by
  unfold State.takeReset
  rw [hi]
  exact State.blocksReset_settles ..

theorem State.takeReset_unconfigured {s : State} (hi : buildImage s.straps s.memory = none) (k : ResetKind) (x : Sensors) :
    s.takeReset k x = s.blocksReset k none [] (.vacant 0) (.reset 0 0) 0 := by
  unfold State.takeReset
  rw [hi]

theorem State.takeReset_blocks (s : State) (k : ResetKind) (x : Sensors) :
    ∃ img puts floor panel o, s.takeReset k x = s.blocksReset k img puts floor panel o := by
  cases hi : buildImage s.straps s.memory with
  | none => exact ⟨_, _, _, _, _, State.takeReset_unconfigured hi k x⟩
  | some i => exact ⟨_, _, _, _, _, State.takeReset_configured hi k x⟩

/-- Every orphan made is held: none leaves the floor during the reset (R169). -/
theorem Floor.afterReset_heldCount (i : Image) (x : Sensors) : (Floor.afterReset i x).heldCount = orphansAtReset i x := by
  have seats : occupiedCount i.ports x.seats = seatsBefore (seatOccupied x) i.ports := occupiedCount_eq _ _
  rw [Floor.afterReset, resetFloor_heldCount, orphansAtReset, seats]
  omega

/-- The part holds at most three lane orphans and four seated ones, so their room is always to be had (R169, R186). -/
theorem orphansAtReset_room {st : Straps} {m : ConfigMemory} {i : Image} (h : buildImage st m = some i) (x : Sensors) :
    Config.orphanWords * orphansAtReset i x ≤ Config.journalWords := by
  obtain ⟨usable, rfl⟩ := (buildImage_eq_some_iff st m i).1 h
  obtain ⟨_, _, _, _, _, _, _, ports, _, lanePlaces, _⟩ := m.clamped.usable_iff.1 usable
  have seated : occupiedCount m.clamped.ports x.seats ≤ m.clamped.ports := occupiedCount_le _ _
  have lane : occupiedCount m.clamped.lanePlaces x.lane ≤ m.clamped.lanePlaces := occupiedCount_le _ _
  change 5 * (occupiedCount m.clamped.lanePlaces x.lane + occupiedCount m.clamped.ports x.seats) ≤ 2048
  omega

/-- A seated orphan has been granted room exactly when it and those before it found places in the release lane. -/
theorem granted_iff (seat : Nat → Bool) (u : Nat) {k n : Nat} (hk : k < n) (hs : seat k = true) :
    seatsBefore seat k < min (seatsBefore seat n) (2 - u) ↔ u + seatsBefore seat k < 2 := by
  have := seatsBefore_lt seat hk hs
  omega

/-- An empty place has been routed to exactly when the lane held an orphan for it and for those before it. -/
theorem routed_iff (seat : Nat → Bool) (m : Nat) {k n : Nat} (hk : k < n) (hs : seat k = false) :
    k - seatsBefore seat k < min m (n - seatsBefore seat n) ↔ k - seatsBefore seat k < m := by
  have := emptiesBefore_lt seat hk hs
  omega

/-- The port of place `k` at the end of a reset, with `u` places of the release lane and `m` of the lane occupied. -/
def settledPort (seat : Nat → Bool) (d u m k : Nat) : Port :=
  if seat k then
    { num := k + 1, state := if u + seatsBefore seat k < 2 then .releasing else .releaseWait, tote := some Tote.seatedOrphan
      seatTimer := none, occupied := true, routerStrokes := 0, releaseStrokes := if u + seatsBefore seat k < 2 then 1 else 0 }
  else if k - seatsBefore seat k < m then
    { num := k + 1, state := .inbound, tote := some Tote.newOrphan, seatTimer := some d, occupied := false, routerStrokes := 1
      releaseStrokes := 0 }
  else
    { num := k + 1, state := .vacant, tote := none, seatTimer := none, occupied := false, routerStrokes := 0, releaseStrokes := 0 }

theorem resetPort_settled (seat : Nat → Bool) (d u m : Nat) {k n : Nat} (hk : k < n) :
    resetPort seat d (min m (n - seatsBefore seat n)) (min (seatsBefore seat n) (2 - u)) k = settledPort seat d u m k := by
  unfold resetPort settledPort
  cases hs : seat k with
  | true => simp only [if_true, granted_iff seat u hk hs]
  | false => simp only [Bool.false_eq_true, if_false, routed_iff seat m hk hs]

theorem resetWaiting_settled (n : Nat) (seat : Nat → Bool) (u : Nat) :
    resetWaiting n seat (min (seatsBefore seat n) (2 - u)) =
      ((List.range n).filter fun k => seat k && decide (2 ≤ u + seatsBefore seat k)).map (· + 1) := by
  refine congrArg _ (List.filter_congr fun k hk => ?_)
  cases hs : seat k with
  | true =>
      have waits := not_congr (granted_iff seat u (List.mem_range.1 hk) hs)
      rw [not_lt, not_lt] at waits
      rw [decide_eq_decide.2 waits]
  | false => rfl

theorem Floor.afterReset_eq (i : Image) (x : Sensors) :
    Floor.afterReset i x =
      { lane := List.replicate (occupiedCount i.lanePlaces x.lane - (i.ports - seatsBefore (seatOccupied x) i.ports)) Tote.newOrphan
        ports := (List.range i.ports).map (settledPort (seatOccupied x) (1000 * i.seatTimeout)
          (occupiedCount Config.releaseLanePlaces x.releaseLane) (occupiedCount i.lanePlaces x.lane))
        presentation := []
        releaseWait := ((List.range i.ports).filter fun k => seatOccupied x k &&
          decide (2 ≤ occupiedCount Config.releaseLanePlaces x.releaseLane + seatsBefore (seatOccupied x) k)).map (· + 1)
        releaseLane := List.replicate (occupiedCount Config.releaseLanePlaces x.releaseLane) none } := by
  rw [Floor.afterReset, resetFloor, resetWaiting_settled,
    List.map_congr_left fun k hk => resetPort_settled (seatOccupied x) _ _ _ (List.mem_range.1 hk)]

/-! ### When the commands take a reset (log 10) -/

theorem exec_coldReset_taken {s : State} (h : s.power.resetAsserted = false) (x : Sensors) :
    exec (.coldReset x) s = .next (s.takeReset .cold x) := by
  change Host.Outcome.next (if _ then _ else _) = _
  rw [if_neg (by simp [h])]

theorem exec_warmReset_taken {s : State} (h : s.power.supplyOk = true) (hc : s.power.coldPending = false) (x : Sensors) :
    exec (.warmReset x) s = .next (s.takeReset .warm x) := by
  change Host.Outcome.next (if _ then s.takeReset (if _ then _ else _) x else _) = _
  rw [if_pos h, if_neg (by simp [hc])]

end Sys2Proof.Machine

/-- Settles O57: the state `takeReset` leaves, block by block, with and without an image; and the journal of a warm one. -/
theorem resetsTaken : Obligations.ResetsTaken := by
  refine ⟨fun s x => ?_, fun s x t hs hc hi ht => ?_, fun s x t hs hc hi ht => ?_⟩
  · intro orphan seat before inLane inRelease port blocks
    have left : ∀ k, blocks (s.takeReset k x) := fun k => by
      cases hi : buildImage s.straps s.memory with
      | none =>
          rw [State.takeReset_unconfigured hi]
          exact ⟨rfl, rfl, hi.symm, rfl, rfl, rfl, rfl, rfl, rfl, rfl, rfl, rfl, rfl, rfl, rfl, rfl, rfl, rfl,
            fun _ => ⟨rfl, rfl, rfl⟩, fun i h => by cases h⟩
      | some i =>
          rw [State.takeReset_configured hi]
          refine ⟨rfl, rfl, hi.symm, rfl, rfl, rfl, rfl, rfl, rfl, rfl, rfl, rfl, rfl, rfl, rfl, rfl, rfl, rfl,
            (fun h => by cases h), fun j hj => ?_⟩
          cases hj
          refine ⟨rfl, rfl, ?_⟩
          have lane : inLane i = occupiedCount i.lanePlaces x.lane := List.countP_eq_length_filter.symm
          have release : inRelease = occupiedCount Config.releaseLanePlaces x.releaseLane := List.countP_eq_length_filter.symm
          change Floor.afterReset i x = _
          rw [Floor.afterReset_eq, ← lane, ← release]
          rfl
    refine ⟨fun hr => ⟨_, exec_coldReset_taken hr x, left _, ?_⟩, fun hs hc => ⟨_, exec_warmReset_taken hs hc x, left _, ?_⟩⟩
    · obtain ⟨_, _, _, _, _, same⟩ := s.takeReset_blocks .cold x
      rw [same]
      exact ⟨rfl, rfl⟩
    · obtain ⟨_, _, _, _, o, same⟩ := s.takeReset_blocks .warm x
      rw [same]
      exact ⟨rfl, rfl, _, s.journal.excess_le o, s.journal.afterWarmReset_entries o, s.journal.afterWarmReset_oldest o⟩
  · obtain ⟨i, hi⟩ := Option.isSome_iff_exists.1 hi
    rw [exec_warmReset_taken hs hc, State.takeReset_configured hi] at ht
    cases ht
    change Config.orphanWords * (Floor.afterReset i x).heldCount ≤ (s.journal.afterWarm (orphansAtReset i x)).free ∧ _ ∧
      (Config.orphanWords * (Floor.afterReset i x).heldCount ≤ _ → (s.journal.afterWarm _).entries = _ ∧ (s.journal.afterWarm _).oldest = _) ∧
      ∀ k, k < _ - (s.journal.afterWarm (orphansAtReset i x)).entries.length →
        _ < Config.orphanWords * (Floor.afterReset i x).heldCount
    rw [Floor.afterReset_heldCount]
    refine ⟨excessEntries_room (orphansAtReset_room hi x) _, rfl, fun room => ?_, fun k hk => excessEntries_least ?_⟩
    · have allStay : s.journal.excess (orphansAtReset i x) = 0 := excessEntries_eq_zero room
      rw [Journal.afterWarmReset_entries, Journal.afterWarmReset_oldest, allStay, List.drop_zero, BitVec.add_zero]
      exact ⟨rfl, rfl⟩
    · rw [Journal.afterWarmReset_entries, List.length_drop, Nat.sub_sub_self (Journal.excess_le _ _)] at hk
      exact hk
  · rw [exec_warmReset_taken hs hc, State.takeReset_unconfigured hi] at ht
    cases ht
    exact s.journal.afterWarmReset_none
end

section
/-! SUPPORT. The Line Table in form, taken apart: its records, the lists of bound lines that name them, the lists that must be empty,
and the lit task (R23, R26, R27, R34, R111, R123); and what each part needs to stand a change of the records. -/

namespace Sys2Proof.Machine

/-- The key that an entry of a list of bound lines names (R56). -/
abbrev BoundLine.key (b : BoundLine) : OrderId × Byte := (b.order, b.lineNo)

/-- The records of the Line Table by themselves (R23, R26, R27, R34). -/
structure RecordsOk (ls : List Line) : Prop where
  size : ls.length ≤ Config.lineCapacity
  keys : (ls.map Line.key).Nodup
  order : ∀ o, (ls.filter fun l => l.order == o).length ≤ Config.orderLineLimit
  put : ∀ l ∈ ls, ∀ m ∈ ls, l.order = m.order → l.put = m.put
  bindings : ∀ l ∈ ls, l.bindingOk = true
  picked : ∀ l ∈ ls, l.picked ≤ l.requested

/-- The states of a line on the list of a record of this kind (R26). -/
def Binding.states : Binding → List LineState
  | .contest _ => [.provisional, .reserved]
  | .tote _ => [.reserved, .active]

/-- Record `r`, of the contest table or of the Tote Store, has the list `bs` (R26, R56). -/
def Holder (cs : List Contest) (fl : Floor) : Binding → List BoundLine → Prop
  | .contest t, bs => ∃ c ∈ cs, c.tote = t ∧ c.bound = bs
  | .tote t, bs => ∃ x ∈ fl.allTotes, x.id = some t ∧ x.bound = bs

/-- Lists and bindings agree, in both directions (R26). -/
structure Listing (ls : List Line) (H : Binding → List BoundLine → Prop) : Prop where
  once : ∀ r bs, H r bs → (boundKeys bs).Nodup
  holds : ∀ r bs, H r bs → ∀ b ∈ bs, ∃ l ∈ ls, l.Holds b r r.states
  listed : ∀ l ∈ ls, ∀ r, l.binding = some r → ∃ bs, H r bs ∧ ∃ b ∈ bs, l.isBound b = true

/-- The lists that are empty: those of orphans and of totes on their way out (R91, R111). -/
structure Floor.Emptied (fl : Floor) : Prop where
  orphans : ∀ x ∈ fl.allTotes, x.id = none → x.bound = []
  leaving : ∀ q ∈ fl.ports, q.state = .releaseWait ∨ q.state = .releasing ∨ q.state = .faulted → ∀ x ∈ q.tote, x.bound = []
  released : ∀ y ∈ fl.releaseLane, ∀ x ∈ y, x.bound = []

/-- The tote `t` stands at the PRESENTED port `p`. -/
def Floor.Presents (fl : Floor) (p : Nat) (t : ToteId) : Prop := ∃ x, fl.presentedTote p = some x ∧ x.id = some t

/-- `l` is the line of the task `k` (R123). -/
structure Line.Lit (l : Line) (k : Task) : Prop where
  key : l.key = (k.order, k.lineNo)
  state : l.state = .active
  binding : l.binding = some (.tote k.tote)
  units : k.units ≤ l.requested - l.picked

/-- The task is lit on an ACTIVE line for a tote PRESENTED at its port, and no other line is ACTIVE (R123). -/
structure TaskOk (ls : List Line) (task : Option Task) (fl : Floor) : Prop where
  lit : ∀ k, task = some k → k.display ≤ k.units ∧ fl.Presents k.port k.tote ∧ ∃ l ∈ ls, l.Lit k
  active : ∀ l ∈ ls, l.state = .active → ∃ k, task = some k ∧ l.key = (k.order, k.lineNo)

/-- The four parts. -/
structure LinesForm (s : State) : Prop where
  records : RecordsOk s.lines
  listing : Listing s.lines (Holder s.contests s.floor)
  emptied : s.floor.Emptied
  task : TaskOk s.lines s.panel.task s.floor

theorem linesOk_iff (s : State) : LinesOk s ↔ LinesForm s := by
  constructor
  · intro h
    refine ⟨⟨h.size, h.keys, fun o => ?_, h.put, h.bindings, h.picked⟩, ⟨?_, ?_, ?_⟩, ⟨?_, h.released.1, h.released.2⟩, ⟨?_, ?_⟩⟩
    · cases none : s.lines.filter (fun l => l.order == o) with
      | nil => exact Nat.zero_le _
      | cons l ls =>
          have mem : l ∈ s.lines.filter (fun l => l.order == o) := none ▸ List.mem_cons_self
          obtain ⟨hl, ho⟩ := List.mem_filter.1 mem
          obtain rfl : l.order = o := by simpa using ho
          exact none ▸ h.order l hl
    · rintro (t | t) bs ⟨x, hx, -, rfl⟩
      · exact (h.claims x hx).1
      · exact (h.totes x hx).1
    · rintro (t | t) bs ⟨x, hx, ht, rfl⟩ b hb
      · exact ht ▸ (h.claims x hx).2 b hb
      · obtain ⟨u, hu, l⟩ := (h.totes x hx).2 b hb
        cases ht.symm.trans hu
        exact l
    · rintro l hl (t | t) hr
      · obtain ⟨c, hc, ht, hb⟩ := (h.listed l hl t).1 hr
        exact ⟨c.bound, ⟨c, hc, ht, rfl⟩, hb⟩
      · obtain ⟨x, hx, ht, hb⟩ := (h.listed l hl t).2 hr
        exact ⟨x.bound, ⟨x, hx, ht, rfl⟩, hb⟩
    · intro x hx hn
      refine List.eq_nil_iff_forall_not_mem.2 fun b hb => ?_
      obtain ⟨t, ht, -⟩ := (h.totes x hx).2 b hb
      cases hn.symm.trans ht
    · intro k hk
      obtain ⟨display, presented, l, hl, key, state, binding, units⟩ := h.task k hk
      exact ⟨display, presented, l, hl, (l.hasKey_iff _ _).1 key, state, binding, units⟩
    · intro l hl ha
      obtain ⟨k, hk, key⟩ := h.active l hl ha
      exact ⟨k, hk, (l.hasKey_iff _ _).1 key⟩
  · intro h
    refine ⟨h.records.size, h.records.keys, fun l _ => h.records.order l.order, h.records.put, h.records.bindings, h.records.picked,
      fun c hc => ?_, fun x hx => ?_, fun l hl t => ⟨fun hr => ?_, fun hr => ?_⟩, ⟨h.emptied.leaving, h.emptied.released⟩, ?_, ?_⟩
    · exact ⟨h.listing.once (.contest c.tote) _ ⟨c, hc, rfl, rfl⟩, h.listing.holds (.contest c.tote) _ ⟨c, hc, rfl, rfl⟩⟩
    · cases hi : x.id with
      | none => simp [h.emptied.orphans x hx hi, boundKeys]
      | some t =>
          exact ⟨h.listing.once (.tote t) _ ⟨x, hx, hi, rfl⟩, fun b hb =>
            ⟨t, rfl, h.listing.holds (.tote t) _ ⟨x, hx, hi, rfl⟩ b hb⟩⟩
    · obtain ⟨_, ⟨c, hc, ht, rfl⟩, hb⟩ := h.listing.listed l hl _ hr
      exact ⟨c, hc, ht, hb⟩
    · obtain ⟨_, ⟨x, hx, ht, rfl⟩, hb⟩ := h.listing.listed l hl _ hr
      exact ⟨x, hx, ht, hb⟩
    · intro k hk
      obtain ⟨display, presented, l, hl, lit⟩ := h.task.lit k hk
      exact ⟨display, presented, l, hl, (l.hasKey_iff _ _).2 lit.key, lit.state, lit.binding, lit.units⟩
    · intro l hl ha
      obtain ⟨k, hk, key⟩ := h.task.active l hl ha
      exact ⟨k, hk, (l.hasKey_iff _ _).2 key⟩

/-! ### State and binding of a line (R26, R34) -/

/-- The states in which a line is bound to nothing (R26). -/
def LineState.loose (st : LineState) : Prop := st = .waiting ∨ st = .done ∨ st = .cancelled

theorem Line.bindingOk_loose {l : Line} (hs : l.state.loose) (hb : l.binding = none) (hp : l.cancelPending = false) :
    l.bindingOk = true := by
  rcases hs with hs | hs | hs <;> simp [Line.bindingOk, hs, hb, hp]

theorem Line.bindingOk_bound {l : Line} {r : Binding} (hs : l.state ∈ r.states) (hb : l.binding = some r)
    (hp : l.cancelPending = false) : l.bindingOk = true := by
  cases r <;> simp only [Binding.states, List.mem_cons, List.not_mem_nil, or_false] at hs <;>
    rcases hs with hs | hs <;> simp [Line.bindingOk, hs, hb, hp]

theorem Line.unbound_of_loose {l : Line} (h : l.bindingOk = true) (hs : l.state.loose) : l.binding = none := by
  cases hb : l.binding with
  | none => rfl
  | some r => rcases hs with hs | hs | hs <;> simp [Line.bindingOk, hs, hb] at h

/-- Only an ACTIVE line is cancel-pending (R34). -/
theorem Line.not_pending {l : Line} (h : l.bindingOk = true) (hs : l.state ≠ .active) : l.cancelPending = false := by
  cases hst : l.state with
  | active => exact absurd hst hs
  | _ =>
      cases hb : l.binding with
      | none => simp_all [Line.bindingOk]
      | some r => cases r <;> simp_all [Line.bindingOk]

/-- An ACTIVE line is in order whether or not it is cancel-pending (R34). -/
theorem Line.bindingOk_active {l : Line} {t : ToteId} (hs : l.state = .active) (hb : l.binding = some (.tote t)) : l.bindingOk = true := by
  simp [Line.bindingOk, hs, hb]

theorem Line.active_binding {l : Line} (h : l.bindingOk = true) (hs : l.state = .active) : ∃ t, l.binding = some (.tote t) := by
  cases hb : l.binding with
  | none => simp [Line.bindingOk, hs, hb] at h
  | some r =>
      cases r with
      | contest t => simp [Line.bindingOk, hs, hb] at h
      | tote t => exact ⟨t, rfl⟩

/-! ### The records after a change of single ones -/

theorem Line.order_of_key {a b : Line} (h : a.key = b.key) : a.order = b.order := congrArg Prod.fst h

theorem RecordsOk.map {ls : List Line} (h : RecordsOk ls) (g : Line → Line) (key : ∀ l, (g l).key = l.key)
    (put : ∀ l, (g l).put = l.put) (bindings : ∀ l ∈ ls, (g l).bindingOk = true)
    (picked : ∀ l ∈ ls, (g l).picked ≤ (g l).requested) : RecordsOk (ls.map g) := by
  refine ⟨by simpa using h.size, ?_, fun o => ?_, ?_, List.forall_mem_map.2 bindings, List.forall_mem_map.2 picked⟩
  · rw [keys_map g key]
    exact h.keys
  · rw [List.filter_map, List.length_map]
    have same : ((fun l => l.order == o) ∘ g) = fun l : Line => l.order == o :=
      funext fun l => by rw [Function.comp_apply, Line.order_of_key (key l)]
    rw [same]
    exact h.order o
  · simp only [List.forall_mem_map, put]
    intro l hl m hm e
    exact h.put l hl m hm (by rw [← Line.order_of_key (key l), e, Line.order_of_key (key m)])

theorem RecordsOk.sublist {ls ms : List Line} (h : RecordsOk ls) (s : ms.Sublist ls) : RecordsOk ms :=
  ⟨s.length_le.trans h.size, h.keys.sublist (s.map _), fun o => (s.filter _).length_le.trans (h.order o),
    fun l hl m hm => h.put l (s.subset hl) m (s.subset hm), fun l hl => h.bindings l (s.subset hl),
    fun l hl => h.picked l (s.subset hl)⟩

/-- Records with one key are one record (R23). -/
theorem RecordsOk.same {ls : List Line} (h : RecordsOk ls) {l m : Line} (hl : l ∈ ls) (hm : m ∈ ls) (e : l.key = m.key) : l = m :=
  List.inj_on_of_nodup_map h.keys hl hm e

/-! ### Lists and bindings after a change of single records -/

/-- The record that an entry names is bound to the entry's holder. -/
theorem Listing.binding_of {ls : List Line} {H : Binding → List BoundLine → Prop} (h : Listing ls H) (rs : RecordsOk ls)
    {r : Binding} {bs : List BoundLine} (hr : H r bs) {b : BoundLine} (hb : b ∈ bs) {l : Line} (hl : l ∈ ls) (hk : l.key = b.key) :
    l.Holds b r r.states := by
  obtain ⟨m, hm, holds⟩ := h.holds r bs hr b hb
  rwa [rs.same hl hm (hk.trans ((m.isBound_iff b).1 holds.key).symm)]

/-- No line is on the lists of two records. -/
theorem Listing.holder_eq {ls : List Line} {H : Binding → List BoundLine → Prop} (h : Listing ls H) (rs : RecordsOk ls)
    {r r' : Binding} {bs bs' : List BoundLine} (hr : H r bs) (hr' : H r' bs') {b b' : BoundLine} (hb : b ∈ bs) (hb' : b' ∈ bs')
    (hk : b.key = b'.key) : r = r' := by
  obtain ⟨l, hl, holds⟩ := h.holds r bs hr b hb
  have other := h.binding_of rs hr' hb' hl (((l.isBound_iff b).1 holds.key).trans hk)
  exact Option.some.inj (holds.binding.symm.trans other.binding)

/-- Lists without entries play no part. -/
theorem Listing.congr {ls : List Line} {H H' : Binding → List BoundLine → Prop} (h : Listing ls H)
    (same : ∀ r bs, bs ≠ [] → (H' r bs ↔ H r bs)) : Listing ls H' := by
  refine ⟨fun r bs hr => ?_, fun r bs hr b hb => h.holds r bs ((same r bs (List.ne_nil_of_mem hb)).1 hr) b hb, fun l hl r hr => ?_⟩
  · by_cases e : bs = []
    · simp [e, boundKeys]
    · exact h.once r bs ((same r bs e).1 hr)
  · obtain ⟨bs, hbs, b, hb, bound⟩ := h.listed l hl r hr
    exact ⟨bs, (same r bs (List.ne_nil_of_mem hb)).2 hbs, b, hb, bound⟩

/-- Records keep key, binding and amounts, and a state that their holder lists. -/
theorem Listing.restate {ls : List Line} {H : Binding → List BoundLine → Prop} (h : Listing ls H) (g : Line → Line)
    (key : ∀ l, (g l).key = l.key) (binding : ∀ l, (g l).binding = l.binding)
    (left : ∀ l, (g l).requested - (g l).picked = l.requested - l.picked)
    (state : ∀ l ∈ ls, ∀ r, l.binding = some r → l.state ∈ r.states → (g l).state ∈ r.states) : Listing (ls.map g) H := by
  refine ⟨h.once, fun r bs hr b hb => ?_, List.forall_mem_map.2 fun l hl r hr => ?_⟩
  · obtain ⟨l, hl, holds⟩ := h.holds r bs hr b hb
    refine ⟨g l, List.mem_map_of_mem hl, ?_, state l hl r holds.binding holds.state, (binding l).trans holds.binding, ?_⟩
    · rw [Line.isBound_iff, key]
      exact (l.isBound_iff b).1 holds.key
    · rw [left]
      exact holds.units
  · obtain ⟨bs, hbs, b, hb, bound⟩ := h.listed l hl r ((binding l).symm.trans hr)
    refine ⟨bs, hbs, b, hb, ?_⟩
    rw [Line.isBound_iff, key]
    exact (l.isBound_iff b).1 bound

/-- A change of records that frees those of the keys `T` of their binding and leaves the others what a list looks at. -/
structure Frees (T : OrderId × Byte → Prop) (ls : List Line) (g : Line → Line) : Prop where
  key : ∀ l, (g l).key = l.key
  put : ∀ l, (g l).put = l.put
  loose : ∀ l ∈ ls, T l.key → (g l).state.loose
  unbound : ∀ l ∈ ls, T l.key → (g l).binding = none
  unpending : ∀ l ∈ ls, T l.key → (g l).cancelPending = false
  picked : ∀ l ∈ ls, (g l).picked ≤ (g l).requested
  bindings : ∀ l ∈ ls, ¬T l.key → (g l).bindingOk = true
  state : ∀ l ∈ ls, ¬T l.key → (g l).state = l.state
  binding : ∀ l ∈ ls, ¬T l.key → (g l).binding = l.binding
  left : ∀ l ∈ ls, ¬T l.key → (g l).requested - (g l).picked = l.requested - l.picked

section
variable {T : OrderId × Byte → Prop} {ls : List Line} {g : Line → Line}

theorem RecordsOk.frees (h : RecordsOk ls) (f : Frees T ls g) : RecordsOk (ls.map g) := by
  refine h.map g f.key f.put (fun l hl => ?_) f.picked
  by_cases ht : T l.key
  · exact Line.bindingOk_loose (f.loose l hl ht) (f.unbound l hl ht) (f.unpending l hl ht)
  · exact f.bindings l hl ht

/-- Freed records leave every list, and each list loses only their entries. -/
theorem Listing.frees {H H' : Binding → List BoundLine → Prop} (h : Listing ls H) (f : Frees T ls g)
    (source : ∀ r bs', H' r bs' → bs' = [] ∨ ∃ bs, H r bs ∧ bs'.Sublist bs ∧ ∀ b ∈ bs', ¬T b.key)
    (target : ∀ r bs, H r bs → ∀ b ∈ bs, ¬T b.key → ∃ bs', H' r bs' ∧ b ∈ bs') : Listing (ls.map g) H' := by
  refine ⟨fun r bs' hr => ?_, fun r bs' hr b hb => ?_, List.forall_mem_map.2 fun l hl r hr => ?_⟩
  · rcases source r bs' hr with rfl | ⟨bs, hbs, sub, -⟩
    · simp [boundKeys]
    · exact (h.once r bs hbs).sublist (sub.map _)
  · rcases source r bs' hr with rfl | ⟨bs, hbs, sub, free⟩
    · cases hb
    · obtain ⟨l, hl, holds⟩ := h.holds r bs hbs b (sub.subset hb)
      have bound := (l.isBound_iff b).1 holds.key
      have untouched : ¬T l.key := bound ▸ free b hb
      refine ⟨g l, List.mem_map_of_mem hl, ?_, ?_, (f.binding l hl untouched).trans holds.binding, ?_⟩
      · rw [Line.isBound_iff, f.key]
        exact bound
      · rw [f.state l hl untouched]
        exact holds.state
      · rw [f.left l hl untouched]
        exact holds.units
  · by_cases ht : T l.key
    · rw [f.unbound l hl ht] at hr
      cases hr
    · obtain ⟨bs, hbs, b, hb, bound⟩ := h.listed l hl r ((f.binding l hl ht).symm.trans hr)
      have key := (l.isBound_iff b).1 bound
      have untouched : ¬T b.key := fun hk => ht (key.symm ▸ hk)
      obtain ⟨bs', hbs', hb'⟩ := target r bs hbs b hb untouched
      refine ⟨bs', hbs', b, hb', ?_⟩
      rw [Line.isBound_iff, f.key]
      exact key

/-- The task stands a change that frees no ACTIVE line, while its tote stays at its port. -/
theorem TaskOk.frees {task : Option Task} {fl fl' : Floor} (h : TaskOk ls task fl) (f : Frees T ls g)
    (active : ∀ l ∈ ls, T l.key → l.state ≠ .active)
    (presents : ∀ k, task = some k → fl.Presents k.port k.tote → fl'.Presents k.port k.tote) : TaskOk (ls.map g) task fl' := by
  refine ⟨fun k hk => ?_, List.forall_mem_map.2 fun l hl ha => ?_⟩
  · obtain ⟨display, presented, l, hl, lit⟩ := h.lit k hk
    have untouched : ¬T l.key := fun ht => active l hl ht lit.state
    exact ⟨display, presents k hk presented, g l, List.mem_map_of_mem hl, (f.key l).trans lit.key,
      (f.state l hl untouched).trans lit.state, (f.binding l hl untouched).trans lit.binding, (f.left l hl untouched) ▸ lit.units⟩
  · by_cases ht : T l.key
    · rcases f.loose l hl ht with e | e | e <;> rw [e] at ha <;> cases ha
    · rw [f.key]
      exact h.active l hl ((f.state l hl ht).symm.trans ha)

/-- After a change that frees the task's line there is no ACTIVE line. -/
theorem TaskOk.ended {k : Task} {fl fl' : Floor} (h : TaskOk ls (some k) fl) (f : Frees T ls g)
    (freed : T (k.order, k.lineNo)) : TaskOk (ls.map g) none fl' := by
  refine ⟨fun _ hk => (by cases hk), List.forall_mem_map.2 fun l hl ha => ?_⟩
  by_cases ht : T l.key
  · rcases f.loose l hl ht with e | e | e <;> rw [e] at ha <;> cases ha
  · obtain ⟨j, hj, key⟩ := h.active l hl ((f.state l hl ht).symm.trans ha)
    cases hj
    exact absurd (key ▸ freed) ht

end

theorem any_isBound_iff (bs : List BoundLine) (l : Line) : bs.any l.isBound = true ↔ l.key ∈ boundKeys bs := by
  simp only [List.any_eq_true, Line.isBound_iff, boundKeys, List.mem_map]
  exact exists_congr fun b => and_congr_right fun _ => eq_comm

theorem mem_boundKeys {bs : List BoundLine} {b : BoundLine} (h : b ∈ bs) : b.key ∈ boundKeys bs := List.mem_map_of_mem h

/-- A listed line returned to WAITING. -/
def returned (bs : List BoundLine) (l : Line) : Line := if bs.any l.isBound then l.toWaiting else l

theorem returnLines_eq (bs : List BoundLine) (ls : List Line) : returnLines bs ls = ls.map (returned bs) := rfl

/-- Lines returned to WAITING are freed (R26); none of them is ACTIVE. -/
theorem Frees.returned {ls : List Line} (rs : RecordsOk ls) (bs : List BoundLine)
    (idle : ∀ l ∈ ls, l.key ∈ boundKeys bs → l.state ≠ .active) : Frees (· ∈ boundKeys bs) ls (returned bs) := by
  have hit : ∀ l, l.key ∈ boundKeys bs → Machine.returned bs l = l.toWaiting := fun l h => if_pos ((any_isBound_iff bs l).2 h)
  have miss : ∀ l, ¬l.key ∈ boundKeys bs → Machine.returned bs l = l := fun l h => if_neg (mt (any_isBound_iff bs l).1 h)
  refine ⟨fun l => ?_, fun l => ?_, fun l _ h => .inl (by rw [hit l h]; rfl), fun l _ h => by rw [hit l h]; rfl, fun l hl h => ?_,
    fun l hl => ?_, fun l hl h => ?_, fun l _ h => by rw [miss l h], fun l _ h => by rw [miss l h], fun l _ h => by rw [miss l h]⟩
  · unfold Machine.returned
    split <;> rfl
  · unfold Machine.returned
    split <;> rfl
  · rw [hit l h]
    have quiet : l.cancelPending = false := Line.not_pending (rs.bindings l hl) (idle l hl h)
    exact quiet
  · unfold Machine.returned
    split
    · exact rs.picked l hl
    · exact rs.picked l hl
  · rw [miss l h]
    exact rs.bindings l hl

/-! ### Lines bound (R26, R67, R57) -/

/-- A listed line bound to a record. -/
def bindTo (bs : List BoundLine) (st : LineState) (r : Binding) (l : Line) : Line :=
  if bs.any l.isBound then { l with state := st, binding := some r } else l

section
variable (bs : List BoundLine) (st : LineState) (r : Binding) (l : Line)

@[simp] theorem bindTo_key : (bindTo bs st r l).key = l.key := by unfold bindTo; split <;> rfl
@[simp] theorem bindTo_put : (bindTo bs st r l).put = l.put := by unfold bindTo; split <;> rfl
@[simp] theorem bindTo_requested : (bindTo bs st r l).requested = l.requested := by unfold bindTo; split <;> rfl
@[simp] theorem bindTo_picked : (bindTo bs st r l).picked = l.picked := by unfold bindTo; split <;> rfl

theorem bindTo_hit (h : l.key ∈ boundKeys bs) : bindTo bs st r l = { l with state := st, binding := some r } :=
  if_pos ((any_isBound_iff bs l).2 h)

theorem bindTo_miss (h : l.key ∉ boundKeys bs) : bindTo bs st r l = l := if_neg (mt (any_isBound_iff bs l).1 h)

end

section
variable {ls : List Line} {bs : List BoundLine} {st : LineState} {r : Binding}

theorem RecordsOk.bind (h : RecordsOk ls) (hst : st ∈ r.states)
    (idle : ∀ l ∈ ls, l.key ∈ boundKeys bs → l.state ≠ .active) : RecordsOk (ls.map (bindTo bs st r)) := by
  refine h.map _ (bindTo_key bs st r) (bindTo_put bs st r) (fun l hl => ?_) (fun l hl => by simpa using h.picked l hl)
  by_cases hk : l.key ∈ boundKeys bs
  · rw [bindTo_hit _ _ _ _ hk]
    have quiet : l.cancelPending = false := Line.not_pending (h.bindings l hl) (idle l hl hk)
    exact Line.bindingOk_bound hst rfl quiet
  · rw [bindTo_miss _ _ _ _ hk]
    exact h.bindings l hl

/-- Lines bound in a state that is not ACTIVE leave the task as it is. -/
theorem TaskOk.bind {task : Option Task} {fl fl' : Floor} (h : TaskOk ls task fl) (hst : st ≠ .active)
    (idle : ∀ l ∈ ls, l.key ∈ boundKeys bs → l.state ≠ .active)
    (presents : ∀ k, task = some k → fl.Presents k.port k.tote → fl'.Presents k.port k.tote) :
    TaskOk (ls.map (bindTo bs st r)) task fl' := by
  refine ⟨fun k hk => ?_, List.forall_mem_map.2 fun l hl ha => ?_⟩
  · obtain ⟨display, presented, l, hl, lit⟩ := h.lit k hk
    refine ⟨display, presents k hk presented, l, List.mem_map.2 ⟨l, hl, ?_⟩, lit⟩
    exact bindTo_miss _ _ _ _ fun hk => idle l hl hk lit.state
  · by_cases hk : l.key ∈ boundKeys bs
    · rw [bindTo_hit _ _ _ _ hk] at ha
      exact absurd ha hst
    · rw [bindTo_miss _ _ _ _ hk] at ha ⊢
      exact h.active l hl ha

/-- Entries of new lines join the list of `r`: their lines were bound to nothing, each entry with no more units than its line has
outstanding. -/
theorem Listing.bind {H H' : Binding → List BoundLine → Prop} (h : Listing ls H) (rs : RecordsOk ls) (hst : st ∈ r.states)
    (once : (boundKeys bs).Nodup)
    (free : ∀ b ∈ bs, ∃ l ∈ ls, l.isBound b = true ∧ l.binding = none ∧ b.units ≤ l.requested - l.picked)
    (source : ∀ r' bs', H' r' bs' → H r' bs' ∨ r' = r ∧ ∃ old, (old = [] ∨ H r old) ∧ bs'.Perm (bs ++ old))
    (target : ∀ r' old, H r' old → ∃ bs', H' r' bs' ∧ ∀ b ∈ old, b ∈ bs') (new : ∃ bs', H' r bs' ∧ ∀ b ∈ bs, b ∈ bs') :
    Listing (ls.map (bindTo bs st r)) H' := by
  -- A listed line has no entry among the new ones.
  have apart : ∀ r' old, H r' old → ∀ b ∈ old, b.key ∉ boundKeys bs := fun r' old ho b hb hk => by
    obtain ⟨b', hb', e⟩ := List.mem_map.1 hk
    obtain ⟨l, hl, bound, unbound, -⟩ := free b' hb'
    have holds := h.binding_of rs ho hb hl (((l.isBound_iff b').1 bound).trans e)
    cases unbound.symm.trans holds.binding
  have kept : ∀ r' old, H r' old → ∀ b ∈ old, ∃ l ∈ ls.map (bindTo bs st r), l.Holds b r' r'.states := fun r' old ho b hb => by
    obtain ⟨l, hl, holds⟩ := h.holds r' old ho b hb
    refine ⟨l, List.mem_map.2 ⟨l, hl, bindTo_miss _ _ _ _ ?_⟩, holds⟩
    rw [(l.isBound_iff b).1 holds.key]
    exact apart r' old ho b hb
  refine ⟨fun r' bs' hr => ?_, fun r' bs' hr b hb => ?_, List.forall_mem_map.2 fun l hl r' hr => ?_⟩
  · rcases source r' bs' hr with hr | ⟨rfl, old, ho, perm⟩
    · exact h.once r' bs' hr
    · refine (perm.map BoundLine.key).nodup_iff.2 ?_
      rcases ho with rfl | ho
      · rw [List.append_nil]
        exact once
      · rw [List.map_append]
        refine List.nodup_append.2 ⟨once, h.once _ old ho, fun k hk j hj e => ?_⟩
        obtain ⟨b, hb, rfl⟩ := List.mem_map.1 hj
        exact apart _ old ho b hb (e ▸ hk)
  · rcases source r' bs' hr with hr | ⟨rfl, old, ho, perm⟩
    · exact kept r' bs' hr b hb
    · rcases List.mem_append.1 (perm.subset hb) with hb | hb
      · obtain ⟨l, hl, bound, -, units⟩ := free b hb
        refine ⟨bindTo bs st r' l, List.mem_map_of_mem hl, ?_, ?_, ?_, by simpa using units⟩
        · rw [Line.isBound_iff, bindTo_key]
          exact (l.isBound_iff b).1 bound
        all_goals rw [bindTo_hit _ _ _ _ ((l.isBound_iff b).1 bound ▸ mem_boundKeys hb)]
        exact hst
      · rcases ho with rfl | ho
        · cases hb
        · exact kept _ old ho b hb
  · by_cases hk : l.key ∈ boundKeys bs
    · rw [bindTo_hit _ _ _ _ hk] at hr
      cases hr
      obtain ⟨bs', hbs', sub⟩ := new
      obtain ⟨b, hb, e⟩ := List.mem_map.1 hk
      refine ⟨bs', hbs', b, sub b hb, ?_⟩
      rw [Line.isBound_iff, bindTo_key]
      exact e.symm
    · rw [bindTo_miss _ _ _ _ hk] at hr ⊢
      obtain ⟨old, ho, b, hb, bound⟩ := h.listed l hl r' hr
      obtain ⟨bs', hbs', sub⟩ := target r' old ho
      exact ⟨bs', hbs', b, sub b hb, bound⟩

/-- The whole list of `r₀` passes to `r`, its lines with it. -/
theorem Listing.rebind {H H' : Binding → List BoundLine → Prop} (h : Listing ls H) (rs : RecordsOk ls) (hst : st ∈ r.states)
    {r₀ : Binding} (hr₀ : H r₀ bs) (only : ∀ bs', H r₀ bs' → bs' = bs)
    (same : ∀ r' bs', H' r' bs' ↔ (r' ≠ r₀ ∧ H r' bs') ∨ (r' = r ∧ bs' = bs)) : Listing (ls.map (bindTo bs st r)) H' := by
  have apart : ∀ r' old, r' ≠ r₀ → H r' old → ∀ b ∈ old, b.key ∉ boundKeys bs := fun r' old hne ho b hb hk => by
    obtain ⟨b', hb', e⟩ := List.mem_map.1 hk
    exact hne (h.holder_eq rs ho hr₀ hb hb' e.symm)
  refine ⟨fun r' bs' hr => ?_, fun r' bs' hr b hb => ?_, List.forall_mem_map.2 fun l hl r' hr => ?_⟩
  · rcases (same r' bs').1 hr with ⟨-, hr⟩ | ⟨-, rfl⟩
    · exact h.once r' bs' hr
    · exact h.once r₀ _ hr₀
  · rcases (same r' bs').1 hr with ⟨hne, hr⟩ | ⟨rfl, rfl⟩
    · obtain ⟨l, hl, holds⟩ := h.holds r' bs' hr b hb
      refine ⟨l, List.mem_map.2 ⟨l, hl, bindTo_miss _ _ _ _ ?_⟩, holds⟩
      rw [(l.isBound_iff b).1 holds.key]
      exact apart r' bs' hne hr b hb
    · obtain ⟨l, hl, holds⟩ := h.holds r₀ _ hr₀ b hb
      have key := (l.isBound_iff b).1 holds.key
      refine ⟨bindTo bs' st r' l, List.mem_map_of_mem hl, ?_, ?_, ?_, by simpa using holds.units⟩
      · rw [Line.isBound_iff, bindTo_key]
        exact key
      all_goals rw [bindTo_hit _ _ _ _ (key ▸ mem_boundKeys hb)]
      exact hst
  · by_cases hk : l.key ∈ boundKeys bs
    · rw [bindTo_hit _ _ _ _ hk] at hr
      cases hr
      obtain ⟨b, hb, e⟩ := List.mem_map.1 hk
      refine ⟨bs, (same _ _).2 (.inr ⟨rfl, rfl⟩), b, hb, ?_⟩
      rw [Line.isBound_iff, bindTo_key]
      exact e.symm
    · rw [bindTo_miss _ _ _ _ hk] at hr ⊢
      obtain ⟨old, ho, b, hb, bound⟩ := h.listed l hl r' hr
      refine ⟨old, (same _ _).2 (.inl ⟨?_, ho⟩), b, hb, bound⟩
      rintro rfl
      rw [only old ho] at hb
      exact hk ((l.isBound_iff b).1 bound ▸ mem_boundKeys hb)

end

end Sys2Proof.Machine
end

section
/-! SUPPORT. The lists of the totes through every move on the bench floor (06): a tote that moves keeps its list, and only totes with an
empty list leave the floor. -/

namespace Sys2Proof.Machine

/-! ### Where the totes stand -/

theorem Floor.mem_allTotes {fl : Floor} {x : Tote} :
    x ∈ fl.allTotes ↔ x ∈ fl.lane ∨ (∃ q ∈ fl.ports, q.tote = some x) ∨ some x ∈ fl.releaseLane := by
  simp [Floor.allTotes, Floor.heldTotes]

theorem Floor.mapTotes_heldTotes (fl : Floor) (f : Tote → Tote) : (fl.mapTotes f).heldTotes = fl.heldTotes.map f := by
  simp [Floor.heldTotes, Floor.mapTotes, List.filterMap_map, List.map_filterMap]

theorem Floor.mapTotes_allTotes (fl : Floor) (f : Tote → Tote) : (fl.mapTotes f).allTotes = fl.allTotes.map f := by
  rw [Floor.allTotes, Floor.mapTotes_heldTotes, Floor.allTotes, List.map_append, List.map_filterMap]
  simp [Floor.mapTotes, List.filterMap_map]

theorem Floor.mapTotes_port (fl : Floor) (f : Tote → Tote) (p : Nat) :
    (fl.mapTotes f).port p = (fl.port p).map fun q => { q with tote := q.tote.map f } := by
  simp [Floor.port, Floor.mapTotes, List.find?_map]

theorem Floor.mapTotes_presentedTote (fl : Floor) (f : Tote → Tote) (p : Nat) :
    (fl.mapTotes f).presentedTote p = (fl.presentedTote p).map f := by
  rw [Floor.presentedTote, Floor.mapTotes_port, Floor.presentedTote]
  cases fl.port p with
  | none => rfl
  | some q =>
      simp only [Option.map_some, Option.bind_some]
      split <;> rfl

theorem Floor.updPort_port (fl : Floor) (p n : Nat) (f : Port → Port) (hn : ∀ q, (f q).num = q.num) :
    (fl.updPort p f).port n = (fl.port n).map fun q => if n = p then f q else q := by
  have num : ∀ q : Port, (if q.num == p then f q else q).num = q.num := fun q => by split <;> simp [hn]
  have same : ((fun q : Port => q.num == n) ∘ fun q => if q.num == p then f q else q) = fun q => q.num == n :=
    funext fun q => by rw [Function.comp_apply, num]
  rw [Floor.port, Floor.updPort, List.find?_map, same, Floor.port]
  cases h : fl.ports.find? fun q => q.num == n with
  | none => rfl
  | some q =>
      obtain rfl : q.num = n := by simpa using List.find?_some h
      simp

theorem Floor.updPort_port_self {fl : Floor} {p : Nat} {q : Port} (hq : fl.port p = some q) (f : Port → Port)
    (hn : ∀ q, (f q).num = q.num) : (fl.updPort p f).port p = some (f q) := by
  rw [Floor.updPort_port _ _ _ _ hn, hq]
  simp

theorem Floor.updPort_presentedTote_ne (fl : Floor) {p n : Nat} (h : n ≠ p) (f : Port → Port) (hn : ∀ q, (f q).num = q.num) :
    (fl.updPort p f).presentedTote n = fl.presentedTote n := by
  rw [Floor.presentedTote, Floor.updPort_port _ _ _ _ hn, Floor.presentedTote]
  simp [h]

theorem Floor.presentedTote_congr {a b : Floor} (h : b.ports = a.ports) (p : Nat) : b.presentedTote p = a.presentedTote p := by
  rw [Floor.presentedTote, Floor.port, h, Floor.presentedTote, Floor.port]

theorem Floor.presentedTote_mem {fl : Floor} {p : Nat} {x : Tote} (h : fl.presentedTote p = some x) : x ∈ fl.allTotes := by
  obtain ⟨q, hq, -, ht⟩ := FloorForm.presented_port h
  exact Floor.mem_allTotes.2 (.inr (.inl ⟨q, (Floor.port_mem hq).1, ht⟩))

/-- A port after one port's change: the changed one, or another. -/
theorem Floor.mem_updPort {a : Floor} (n : a.portNums.Nodup) {p : Nat} {q : Port} (hq : a.port p = some q) (f : Port → Port) (x : Port) :
    x ∈ (a.updPort p f).ports ↔ x = f q ∨ (x ∈ a.ports ∧ x.num ≠ p) := by
  obtain ⟨mem, rfl⟩ := Floor.port_mem hq
  refine ⟨fun hx => ?_, ?_⟩
  · obtain ⟨y, hy, rfl⟩ := List.mem_map.1 hx
    by_cases e : y.num = q.num
    · simp [List.inj_on_of_nodup_map n hy mem e]
    · simp [e, hy]
  · rintro (rfl | ⟨hx, hne⟩)
    · exact List.mem_map.2 ⟨q, mem, by simp⟩
    · exact List.mem_map.2 ⟨x, hx, by simp [hne]⟩

/-! ### The list of one port's tote, and the others -/

/-- The tote at the port has the list `bs`, and `r` names it. -/
def Port.Lists (q : Port) (r : Binding) (bs : List BoundLine) : Prop :=
  ∃ x, q.tote = some x ∧ x.id.map .tote = some r ∧ x.bound = bs

/-- The tote `x` stands elsewhere than at port `p`. -/
def Floor.Elsewhere (fl : Floor) (p : Nat) (x : Tote) : Prop :=
  x ∈ fl.lane ∨ (∃ q ∈ fl.ports, q.num ≠ p ∧ q.tote = some x) ∨ some x ∈ fl.releaseLane

/-- A record other than the tote at port `p` has the list `bs`. -/
def Others (cs : List Contest) (fl : Floor) (p : Nat) : Binding → List BoundLine → Prop
  | .contest t, bs => ∃ c ∈ cs, c.tote = t ∧ c.bound = bs
  | .tote t, bs => ∃ x, fl.Elsewhere p x ∧ x.id = some t ∧ x.bound = bs

theorem Floor.mem_allTotes_updPort {a b : Floor} (n : a.portNums.Nodup) {p : Nat} {q : Port} (hq : a.port p = some q) (f : Port → Port)
    (lane : b.lane = a.lane) (ports : b.ports = (a.updPort p f).ports) (release : b.releaseLane = a.releaseLane) (x : Tote) :
    x ∈ b.allTotes ↔ a.Elsewhere p x ∨ (f q).tote = some x := by
  rw [Floor.mem_allTotes, lane, ports, release]
  simp only [Floor.mem_updPort n hq f, Floor.Elsewhere, or_and_right, exists_or, exists_eq_left, and_assoc]
  grind

theorem Floor.mem_allTotes_port {a : Floor} (n : a.portNums.Nodup) {p : Nat} {q : Port} (hq : a.port p = some q) (x : Tote) :
    x ∈ a.allTotes ↔ a.Elsewhere p x ∨ q.tote = some x :=
  Floor.mem_allTotes_updPort n hq id rfl (by simp [Floor.updPort]) rfl x

theorem Holder.updPort_iff {cs : List Contest} {a b : Floor} (n : a.portNums.Nodup) {p : Nat} {q : Port} (hq : a.port p = some q)
    (f : Port → Port) (lane : b.lane = a.lane) (ports : b.ports = (a.updPort p f).ports) (release : b.releaseLane = a.releaseLane)
    (r : Binding) (bs : List BoundLine) : Holder cs b r bs ↔ Others cs a p r bs ∨ (f q).Lists r bs := by
  cases r with
  | contest t => simp [Holder, Others, Port.Lists]
  | tote t =>
      simp only [Holder, Others, Port.Lists, Floor.mem_allTotes_updPort n hq f lane ports release, or_and_right, exists_or,
        Option.map_eq_some_iff, Binding.tote.injEq, exists_eq_right]

theorem Holder.port_iff {cs : List Contest} {a : Floor} (n : a.portNums.Nodup) {p : Nat} {q : Port} (hq : a.port p = some q)
    (r : Binding) (bs : List BoundLine) : Holder cs a r bs ↔ Others cs a p r bs ∨ q.Lists r bs :=
  Holder.updPort_iff n hq id rfl (by simp [Floor.updPort]) rfl r bs

/-- No tote ID stands both at a port and elsewhere (R87). -/
theorem Floor.not_elsewhere {a : Floor} (n : a.portNums.Nodup) (once : a.ids.Nodup) {p : Nat} {q : Port} (hq : a.port p = some q)
    {x y : Tote} {t : ToteId} (hx : q.tote = some x) (hxt : x.id = some t) (hy : a.Elsewhere p y) : y.id ≠ some t := by
  intro hyt
  obtain ⟨mem, rfl⟩ := Floor.port_mem hq
  obtain ⟨l, r, e, -⟩ := Floor.split_port n mem
  have count := List.nodup_iff_count_le_one.1 once t
  rw [Floor.ids_count, e, List.countP_append, List.countP_cons_of_pos (by simp [hx, hxt])] at count
  rcases hy with hy | ⟨m, hm, hne, hmy⟩ | hy
  · have : 0 < a.lane.countP fun z => z.id == some t := List.countP_pos_iff.2 ⟨y, hy, by simp [hyt]⟩
    omega
  · have there : m ∈ l ∨ m ∈ r := by
      rw [e] at hm
      simpa [show m ≠ q from fun h => hne (h ▸ rfl)] using hm
    have pos : ∀ ps : List Port, m ∈ ps → 0 < ps.countP fun z => z.tote.bind (·.id) == some t := fun ps h =>
      List.countP_pos_iff.2 ⟨m, h, by simp [hmy, hyt]⟩
    rcases there with h | h
    · have := pos l h
      omega
    · have := pos r h
      omega
  · have : 0 < a.releaseLane.countP fun z => z.bind (·.id) == some t := List.countP_pos_iff.2 ⟨some y, hy, by simp [hyt]⟩
    omega

/-- One tote for one ID (R87). -/
theorem Floor.tote_unique {a : Floor} (once : a.ids.Nodup) {x y : Tote} (hx : x ∈ a.allTotes) (hy : y ∈ a.allTotes) {t : ToteId}
    (hxt : x.id = some t) (hyt : y.id = some t) : x = y := by
  have key : ∀ l : List Tote, (l.filterMap (·.id)).Nodup → x ∈ l → y ∈ l → x = y := fun l => by
    induction l with
    | nil => simp
    | cons z zs ih =>
        intro n hx hy
        have fresh : z.id = some t → ∀ w ∈ zs, w.id ≠ some t := fun hz w hw hwt => by
          rw [List.filterMap_cons_some hz] at n
          exact (List.nodup_cons.1 n).1 (List.mem_filterMap.2 ⟨w, hw, hwt⟩)
        have rest : (zs.filterMap (·.id)).Nodup := by
          cases hz : z.id with
          | none => rwa [List.filterMap_cons_none hz] at n
          | some u =>
              rw [List.filterMap_cons_some hz] at n
              exact (List.nodup_cons.1 n).2
        rcases List.mem_cons.1 hx with hxz | hx' <;> rcases List.mem_cons.1 hy with hyz | hy'
        · exact hxz.trans hyz.symm
        · exact absurd hyt (fresh (hxz ▸ hxt) y hy')
        · exact absurd hxt (fresh (hyz ▸ hyt) x hx')
        · exact ih rest hx' hy'
  exact key _ once hx hy

/-! ### Moves -/

/-- From `a` to `b` every list with entries stays with its tote, no list is made, the lists that must be empty are empty, and what is
PRESENTED stays so. -/
structure Floor.Carries (a b : Floor) : Prop where
  kept : ∀ x ∈ a.allTotes, x.bound ≠ [] → ∃ y ∈ b.allTotes, y.id = x.id ∧ y.bound = x.bound
  known : ∀ y ∈ b.allTotes, y.bound ≠ [] → ∃ x ∈ a.allTotes, x.id = y.id ∧ x.bound = y.bound
  leaving : ∀ q ∈ b.ports, q.state = .releaseWait ∨ q.state = .releasing ∨ q.state = .faulted → ∀ x ∈ q.tote, x.bound = []
  released : ∀ y ∈ b.releaseLane, ∀ x ∈ y, x.bound = []
  presents : ∀ p t, a.Presents p t → b.Presents p t

theorem Floor.Carries.refl {a : Floor} (h : a.Emptied) : a.Carries a :=
  ⟨fun x hx _ => ⟨x, hx, rfl, rfl⟩, fun x hx _ => ⟨x, hx, rfl, rfl⟩, h.leaving, h.released, fun _ _ => id⟩

theorem Floor.Carries.trans {a b c : Floor} (h : a.Carries b) (k : b.Carries c) : a.Carries c := by
  refine ⟨fun x hx hb => ?_, fun z hz hb => ?_, k.leaving, k.released, fun p t => k.presents p t ∘ h.presents p t⟩
  · obtain ⟨y, hy, hid, hbound⟩ := h.kept x hx hb
    obtain ⟨z, hz, hid', hbound'⟩ := k.kept y hy (hbound ▸ hb)
    exact ⟨z, hz, hid'.trans hid, hbound'.trans hbound⟩
  · obtain ⟨y, hy, hid, hbound⟩ := k.known z hz hb
    obtain ⟨x, hx, hid', hbound'⟩ := h.known y hy (hbound ▸ hb)
    exact ⟨x, hx, hid'.trans hid, hbound'.trans hbound⟩

theorem Floor.Carries.emptied {a b : Floor} (h : a.Carries b) (ha : a.Emptied) : b.Emptied := by
  refine ⟨fun y hy hn => ?_, h.leaving, h.released⟩
  by_contra hb
  obtain ⟨x, hx, hid, hbound⟩ := h.known y hy hb
  exact hb (hbound ▸ ha.orphans x hx (hid.trans hn))

theorem Floor.Carries.holder {a b : Floor} (h : a.Carries b) (cs : List Contest) (r : Binding) {bs : List BoundLine} (hb : bs ≠ []) :
    Holder cs b r bs ↔ Holder cs a r bs := by
  cases r with
  | contest t => rfl
  | tote t =>
      constructor
      · rintro ⟨y, hy, ht, rfl⟩
        obtain ⟨x, hx, hid, hbound⟩ := h.known y hy hb
        exact ⟨x, hx, hid.trans ht, hbound⟩
      · rintro ⟨x, hx, ht, rfl⟩
        obtain ⟨y, hy, hid, hbound⟩ := h.kept x hx hb
        exact ⟨y, hy, hid.trans ht, hbound⟩

/-- One port that is not PRESENTED changes, and takes in or gives up no more than a tote with an empty list, or the head of the lane. -/
theorem Floor.Carries.ofPort {a b : Floor} (n : a.portNums.Nodup) (ha : a.Emptied) {p : Nat} {q : Port} (hq : a.port p = some q)
    (idle : q.state ≠ .presented) (f : Port → Port) (hn : ∀ x, (f x).num = x.num) (ports : b.ports = (a.updPort p f).ports)
    (stand : ∀ x, x.bound ≠ [] → (x ∈ b.lane ∨ (f q).tote = some x ↔ x ∈ a.lane ∨ q.tote = some x))
    (leaving : (f q).state = .releaseWait ∨ (f q).state = .releasing ∨ (f q).state = .faulted → ∀ x ∈ (f q).tote, x.bound = [])
    (released : ∀ y ∈ b.releaseLane, ∀ x ∈ y, x.bound = []) : a.Carries b := by
  have same : ∀ x : Tote, x.bound ≠ [] → (x ∈ b.allTotes ↔ x ∈ a.allTotes) := fun x hx => by
    have outA : some x ∉ a.releaseLane := fun h => hx (ha.released _ h x rfl)
    have outB : some x ∉ b.releaseLane := fun h => hx (released _ h x rfl)
    have here := stand x hx
    rw [Floor.mem_allTotes_port n hq, Floor.mem_allTotes, ports]
    simp only [Floor.mem_updPort n hq f, Floor.Elsewhere, outA, outB, or_false, or_and_right, exists_or, exists_eq_left, and_assoc]
    grind
  refine ⟨fun x hx hb => ⟨x, (same x hb).2 hx, rfl, rfl⟩, fun y hy hb => ⟨y, (same y hb).1 hy, rfl, rfl⟩, fun x hx hs => ?_, released,
    fun m t => ?_⟩
  · rw [ports, Floor.mem_updPort n hq] at hx
    rcases hx with rfl | ⟨hx, -⟩
    · exact leaving hs
    · exact ha.leaving x hx hs
  · rintro ⟨x, hx, ht⟩
    obtain ⟨m', hm, hs, -⟩ := FloorForm.presented_port hx
    have hne : m ≠ p := fun e => by
      rw [e, hq] at hm
      exact idle (Option.some.inj hm ▸ hs)
    refine ⟨x, ?_, ht⟩
    rw [Floor.presentedTote_congr ports, Floor.updPort_presentedTote_ne _ hne _ hn]
    exact hx

/-- Totes changed in place with ID and list kept. -/
theorem Floor.Carries.mapTotes {a : Floor} (ha : a.Emptied) (f : Tote → Tote) (hi : ∀ x, (f x).id = x.id)
    (hb : ∀ x, (f x).bound = x.bound) : a.Carries (a.mapTotes f) := by
  refine ⟨fun x hx _ => ⟨f x, ?_, hi x, hb x⟩, fun y hy _ => ?_, fun q hq hs x hx => ?_, fun y hy x hx => ?_, fun p t => ?_⟩
  · rw [Floor.mapTotes_allTotes]
    exact List.mem_map_of_mem hx
  · rw [Floor.mapTotes_allTotes] at hy
    obtain ⟨x, hx, rfl⟩ := List.mem_map.1 hy
    exact ⟨x, hx, (hi x).symm, (hb x).symm⟩
  · obtain ⟨m, hm, rfl⟩ := List.mem_map.1 hq
    obtain ⟨z, hz, rfl⟩ := Option.map_eq_some_iff.1 hx
    exact (hb z).trans (ha.leaving m hm hs z hz)
  · obtain ⟨z, hz, rfl⟩ := List.mem_map.1 hy
    obtain ⟨w, hw, rfl⟩ := Option.map_eq_some_iff.1 hx
    exact (hb w).trans (ha.released z hz w hw)
  · rintro ⟨x, hx, ht⟩
    exact ⟨f x, by rw [Floor.mapTotes_presentedTote, hx, Option.map_some], (hi x).trans ht⟩

theorem FloorForm.vacant_tote {a : Floor} (h : FloorForm a) {q : Port} (hq : q ∈ a.ports) (hv : q.state = .vacant) : q.tote = none :=
  (h.ok.held q hq).2 hv

/-- Routing takes the head of the lane to a VACANT port (R102). -/
theorem Floor.Carries.routeHead {a : Floor} (h : FloorForm a) (ha : a.Emptied) (d : Nat) : a.Carries (a.routeHead d) := by
  unfold Floor.routeHead
  split
  · rename_i t rest q hl hr
    have mem := Floor.routable_mem hr
    have hv : q.state = .vacant := by
      have := List.find?_some hr
      simp only [Bool.and_eq_true, beq_iff_eq] at this
      exact this.1
    refine Floor.Carries.ofPort h.nums ha (h.port_of_mem mem) (by simp [hv])
      (fun x => { x with state := .inbound, tote := some t, seatTimer := some d, routerStrokes := x.routerStrokes + 1 }) (fun _ => rfl) rfl
      (fun x _ => ?_) (by simp) ha.released
    have empty := h.vacant_tote mem hv
    simp only [Floor.updPort, hl, empty, List.mem_cons, Option.some.injEq, reduceCtorEq, or_false]
    tauto
  · exact .refl ha

theorem Floor.Carries.routeUpTo (k d : Nat) {a : Floor} (h : FloorForm a) (ha : a.Emptied) : a.Carries (a.routeUpTo k d) := by
  induction k generalizing a with
  | zero => exact .refl ha
  | succ k ih =>
      have one := Floor.Carries.routeHead h ha d
      exact one.trans (ih (h.routeHead d) (one.emptied ha))

/-- A port that is not PRESENTED changes and keeps its tote; on its way out only with an empty list. -/
theorem Floor.Carries.changePort {a b : Floor} (n : a.portNums.Nodup) (ha : a.Emptied) {p : Nat} {q : Port} (hq : a.port p = some q)
    (idle : q.state ≠ .presented) (f : Port → Port) (hn : ∀ x, (f x).num = x.num) (ports : b.ports = (a.updPort p f).ports)
    (lane : b.lane = a.lane) (release : b.releaseLane = a.releaseLane) (tote : (f q).tote = q.tote)
    (leaving : (f q).state = .releaseWait ∨ (f q).state = .releasing ∨ (f q).state = .faulted → ∀ x ∈ q.tote, x.bound = []) :
    a.Carries b :=
  .ofPort n ha hq idle f hn ports (fun x _ => by rw [lane, tote]) (tote ▸ leaving) (release ▸ ha.released)

/-- A port whose tote has an empty list gives it up. -/
theorem Floor.Carries.giveUp {a b : Floor} (n : a.portNums.Nodup) (ha : a.Emptied) {p : Nat} {q : Port} (hq : a.port p = some q)
    (idle : q.state ≠ .presented) (empty : ∀ x ∈ q.tote, x.bound = []) (f : Port → Port) (hn : ∀ x, (f x).num = x.num)
    (ports : b.ports = (a.updPort p f).ports) (lane : b.lane = a.lane) (tote : (f q).tote = none)
    (released : ∀ y ∈ b.releaseLane, ∀ x ∈ y, x.bound = []) : a.Carries b := by
  refine .ofPort n ha hq idle f hn ports (fun x hx => ?_) (by simp [tote]) released
  have away : q.tote ≠ some x := fun e => hx (empty x e)
  simp [lane, tote, away]

/-! ### The Line Table and the floor together -/

/-- Floor, claims and Line Table in form: what a step keeps. -/
structure TableForm (s : State) : Prop where
  floor : FloorForm s.floor
  claims : ClaimsOk s
  lines : LinesForm s

/-- The records, the lists, the floor, the task and the configuration of `a`. -/
structure SameTable (a s : State) : Prop where
  lines : s.lines = a.lines
  contests : s.contests = a.contests
  floor : s.floor = a.floor
  task : s.panel.task = a.panel.task
  cfg : s.cfg = a.cfg

theorem SameTable.refl (s : State) : SameTable s s := ⟨rfl, rfl, rfl, rfl, rfl⟩

theorem SameTable.trans {a b c : State} (h : SameTable a b) (k : SameTable b c) : SameTable a c :=
  ⟨k.lines.trans h.lines, k.contests.trans h.contests, k.floor.trans h.floor, k.task.trans h.task, k.cfg.trans h.cfg⟩

theorem SameTable.claims {a s : State} (h : SameTable a s) (k : ClaimsOk a) : ClaimsOk s := by
  refine ⟨h.floor ▸ k.ports, h.floor ▸ h.contests ▸ k.once, ?_⟩
  rw [State.committed, h.floor, h.contests, h.cfg]
  exact k.places

theorem TableForm.same {a s : State} (h : TableForm a) (k : SameTable a s) : TableForm s := by
  refine ⟨k.floor ▸ h.floor, k.claims h.claims, ⟨k.lines ▸ h.lines.records, ?_, k.floor ▸ h.lines.emptied, ?_⟩⟩
  · rw [k.lines, k.contests, k.floor]
    exact h.lines.listing
  · rw [k.lines, k.task, k.floor]
    exact h.lines.task

theorem LinesForm.carries {s : State} (h : LinesForm s) {fl : Floor} (k : s.floor.Carries fl) : LinesForm { s with floor := fl } :=
  ⟨h.records, h.listing.congr fun r _ hb => k.holder s.contests r hb, k.emptied h.emptied,
    ⟨fun j hj => by
      obtain ⟨display, presented, lit⟩ := h.task.lit j hj
      exact ⟨display, k.presents _ _ presented, lit⟩, h.task.active⟩⟩

theorem TableForm.carries {s : State} (h : TableForm s) {fl : Floor} (form : FloorForm fl) (claims : ClaimsOk { s with floor := fl })
    (k : s.floor.Carries fl) : TableForm { s with floor := fl } := ⟨form, claims, h.lines.carries k⟩

theorem TableForm.ids_nodup {s : State} (h : TableForm s) : s.floor.ids.Nodup := h.claims.once.of_append_right

theorem TableForm.contests_nodup {s : State} (h : TableForm s) : (s.contests.map (·.tote)).Nodup := h.claims.once.of_append_left

/-! ### Operations beside the table -/

theorem SameTable.queueFrame (s : State) (f : Frame) : SameTable s (s.queueFrame f) := by
  unfold State.queueFrame
  split <;> exact ⟨rfl, rfl, rfl, rfl, rfl⟩

theorem SameTable.queueQuiet (s : State) : SameTable s s.queueQuiet := by
  unfold State.queueQuiet
  split
  · exact .refl s
  · exact .queueFrame s _

theorem SameTable.completionTest (s : State) : SameTable s s.completionTest := by
  unfold State.completionTest
  split
  · have quiet := SameTable.queueQuiet (State.write { s with mode := .closed } (.mode s.mode .closed))
    exact ⟨quiet.lines, quiet.contests, quiet.floor, quiet.task, quiet.cfg⟩
  · exact .refl s

theorem SameTable.reoffer (s : State) (c : Contest) (n : Nat) : SameTable s (s.reoffer c n) := by
  have queued := SameTable.queueFrame (s.updRoster c.tote fun r => { r with holder := none })
  exact ⟨(queued _).lines, (queued _).contests, (queued _).floor, (queued _).task, (queued _).cfg⟩

namespace TableForm

variable {s : State}

theorem foldl {α : Type} (f : State → α → State) (hf : ∀ {s} a, TableForm s → TableForm (f s a)) (l : List α) (h : TableForm s) :
    TableForm (l.foldl f s) := KeepsFloor.foldl f hf l h

theorem queueFrame (h : TableForm s) (f : Frame) : TableForm (s.queueFrame f) := h.same (.queueFrame s f)

theorem completionTest (h : TableForm s) : TableForm s.completionTest := h.same (.completionTest s)

/-! ### Routing and granting -/

theorem route (h : TableForm s) : TableForm s.route :=
  h.carries h.floor.route (ClaimsOk.keeps.route h.claims) (.routeUpTo _ _ h.floor h.lines.emptied)

/-- A port granted room without a tote on its seat is free again (R113). -/
theorem vacated (h : FloorForm s.floor) {p : Nat} {q : Port} {rest : List Nat} (hw : s.floor.releaseWait = p :: rest)
    (hq : s.floor.port p = some q) (hs : q.state = .releaseWait) :
    FloorForm ({ s.floor with releaseWait := rest }.updPort p Port.vacate) := by
  have room := h.room
  refine h.changePort hq Port.vacate (fun _ => rfl) rfl (by simp [Port.vacate]) (by simp [Port.vacate]) ?_
    (h.presentation_same hq (by simp [hs, Port.vacate])) (.tail h.ok.releaseWait.1 hw (by simp [Port.vacate]))
  simp only [hs, Port.vacate, reduceCtorEq, if_false]
  exact room

/-- A grant takes only a tote with an empty list off the floor (R111, R113). -/
theorem grantHead (h : TableForm s) : TableForm s.grantHead := by
  refine ⟨h.floor.grantHead, ClaimsOk.keeps.grantHead h.claims, ?_⟩
  unfold State.grantHead
  split
  · exact h.lines
  · rename_i p rest hw
    split
    · obtain ⟨q, hq, hs⟩ := h.floor.waiting_port (p := p) (by simp [hw])
      have num := (Floor.port_mem hq).2
      have empty := h.lines.emptied.leaving q (Floor.port_mem hq).1 (.inl hs)
      have hq' : ({ s.floor with releaseWait := rest } : Floor).port p = some q := hq
      unfold State.grantTo
      simp only [hq']
      split
      · exact h.lines.carries (.changePort h.floor.nums h.lines.emptied hq (by simp [hs])
          (fun x => { x with state := .releasing, releaseStrokes := x.releaseStrokes + 1 }) (fun _ => rfl) rfl rfl rfl rfl
          fun _ => empty)
      · have left : s.floor.Carries ({ s.floor with releaseWait := rest }.updPort p Port.vacate) :=
          .giveUp h.floor.nums h.lines.emptied hq (by simp [hs]) empty Port.vacate (fun _ => rfl) rfl rfl rfl h.lines.emptied.released
        have gone : TableForm { s with floor := { s.floor with releaseWait := rest }.updPort p Port.vacate } :=
          h.carries (vacated h.floor hw hq hs)
            (ClaimsOk.keeps.vacate p (ClaimsOk.keeps.floor { s.floor with releaseWait := rest } (.of_same rfl rfl rfl) h.claims)) left
        unfold State.removeAtGrant
        rw [num]
        split
        · exact gone.lines
        · exact (gone.same (s := State.updPort (State.write { s with floor := { s.floor with releaseWait := rest } } _) p Port.vacate)
            ⟨rfl, rfl, rfl, rfl, rfl⟩).completionTest.route.lines
    · exact h.lines

theorem grantUpTo (n : Nat) (h : TableForm s) : TableForm (s.grantUpTo n) := by
  induction n generalizing s with
  | zero => exact h
  | succ n ih => exact ih h.grantHead

theorem grantRoom (h : TableForm s) : TableForm s.grantRoom := h.grantUpTo _

end TableForm

end Sys2Proof.Machine
end

section
/-! SUPPORT. Due order (R24), the lists that keep it (R56, R57), and what an allocation lists (R45, R51); and the statement on due order and
urgency. -/

open Sys2Proof Sys2Proof.Machine

namespace Sys2Proof.Machine

/-! ### Due order -/

/-- `a` is due no later than `b`: by due minute, then by arrival (R24). -/
def Line.dueLe (a b : Line) : Prop := a.due < b.due ∨ a.due = b.due ∧ a.arrival ≤ b.arrival

theorem Line.dueLe_trans {a b c : Line} (h : a.dueLe b) (k : b.dueLe c) : a.dueLe c := by
  unfold Line.dueLe at *
  omega

theorem dueBefore_iff (a b : Line) : dueBefore a b = true ↔ a.due < b.due ∨ a.due = b.due ∧ a.arrival < b.arrival := by
  simp [dueBefore]

theorem Line.dueLe_of_before {a b : Line} (h : dueBefore a b = true) : a.dueLe b := by
  rw [dueBefore_iff] at h
  unfold Line.dueLe
  omega

theorem Line.dueLe_of_not_before {a b : Line} (h : ¬dueBefore a b = true) : b.dueLe a := by
  rw [dueBefore_iff] at h
  unfold Line.dueLe
  omega

theorem insertDue_perm (x : Line) (ls : List Line) : (insertDue x ls).Perm (x :: ls) := by
  induction ls with
  | nil => exact .refl _
  | cons y ys ih =>
      unfold insertDue
      split
      · exact .refl _
      · exact (ih.cons y).trans (.swap x y ys)

theorem sortDue_perm (ls : List Line) : (sortDue ls).Perm ls := by
  induction ls with
  | nil => exact .refl _
  | cons x xs ih => exact (insertDue_perm x _).trans (ih.cons x)

theorem insertDue_sorted (x : Line) {ls : List Line} (h : ls.Pairwise Line.dueLe) : (insertDue x ls).Pairwise Line.dueLe := by
  induction ls with
  | nil => simp [insertDue]
  | cons y ys ih =>
      obtain ⟨first, rest⟩ := List.pairwise_cons.1 h
      unfold insertDue
      split
      · rename_i before
        refine List.pairwise_cons.2 ⟨fun z hz => ?_, h⟩
        rcases List.mem_cons.1 hz with rfl | hz
        · exact Line.dueLe_of_before before
        · exact Line.dueLe_trans (Line.dueLe_of_before before) (first z hz)
      · rename_i after
        refine List.pairwise_cons.2 ⟨fun z hz => ?_, ih rest⟩
        rcases (mem_insertDue x z ys).1 hz with rfl | hz
        · exact Line.dueLe_of_not_before after
        · exact first z hz

theorem sortDue_sorted (ls : List Line) : (sortDue ls).Pairwise Line.dueLe := by
  induction ls with
  | nil => exact .nil
  | cons x xs ih => exact insertDue_sorted x ih

/-! ### Bound lines in due order -/

theorem State.insertBound_perm (s : State) (x : BoundLine) (bs : List BoundLine) : (s.insertBound x bs).Perm (x :: bs) := by
  induction bs with
  | nil => exact .refl _
  | cons y ys ih =>
      unfold State.insertBound
      split
      · exact .refl _
      · exact (ih.cons y).trans (.swap x y ys)

/-- A merged list holds the new and the old entries, each once (R57). -/
theorem State.mergeBound_perm (s : State) (new old : List BoundLine) : (s.mergeBound new old).Perm (new ++ old) := by
  unfold State.mergeBound
  induction new generalizing old with
  | nil => exact .refl _
  | cons x xs ih =>
      have step : (xs ++ s.insertBound x old).Perm (x :: (xs ++ old)) :=
        ((s.insertBound_perm x old).append_left xs).trans List.perm_middle
      exact (ih _).trans step

/-! ### What an allocation lists -/

/-- Entries of WAITING lines, no line twice, each with no more units than its line has outstanding (R45, R51). -/
structure State.Fresh (s : State) (bs : List BoundLine) : Prop where
  once : (boundKeys bs).Nodup
  waiting : ∀ b ∈ bs, ∃ l ∈ s.lines, l.isBound b = true ∧ l.state = .waiting ∧ b.units ≤ l.requested - l.picked

/-- An allocation lists lines in the order of its candidates, each at most once (R51). -/
theorem allocate_sublist (r : AllocRule) (cs : List (Line × Nat)) (a : Alloc) :
    (boundKeys (allocate r cs a).listed).Sublist (boundKeys a.listed ++ cs.map fun x => x.1.key) := by
  induction cs generalizing a with
  | nil => simp [allocate]
  | cons x xs ih =>
      obtain ⟨l, c⟩ := x
      have skipped : (boundKeys a.listed ++ xs.map fun x => x.1.key).Sublist
          (boundKeys a.listed ++ ((l, c) :: xs).map fun x => x.1.key) :=
        (List.Sublist.refl _).append (List.sublist_cons_self _ _)
      unfold allocate
      dsimp only
      split
      · exact (ih a).trans skipped
      · split
        · exact List.sublist_append_left _ _
        · refine (ih _).trans ?_
          simp [boundKeys]

theorem State.candidates_keys {s : State} (n : (s.lines.map Line.key).Nodup) (cls : TempClass) (skus : List Sku) :
    ((s.candidates cls skus).map fun x => x.1.key).Nodup := by
  have sub : ((s.candidates cls skus).map fun x => x.1).Sublist
      (sortDue (s.lines.filter fun l => l.state == .waiting && l.cls == cls)) := by
    rw [State.candidates, List.map_filterMap]
    generalize sortDue _ = ls
    induction ls with
    | nil => simp
    | cons l ls ih =>
        rw [List.filterMap_cons]
        cases firstComp skus l.sku with
        | none => exact ih.cons l
        | some c => exact ih.cons_cons l
  have sorted : ((sortDue (s.lines.filter fun l => l.state == .waiting && l.cls == cls)).map Line.key).Nodup :=
    ((sortDue_perm _).map Line.key).nodup_iff.2 (n.sublist (List.filter_sublist.map _))
  have := sorted.sublist (sub.map Line.key)
  rwa [List.map_map] at this

theorem State.compute_fresh {s : State} (n : (s.lines.map Line.key).Nodup) (cls : TempClass) (skus : List Sku) (avail : List Nat)
    (budget : Option Int) : s.Fresh (s.compute cls skus avail budget).listed := by
  unfold State.compute
  dsimp only
  split
  · exact ⟨List.nodup_nil, fun b hb => nomatch hb⟩
  · refine ⟨(s.candidates_keys n cls skus).sublist (allocate_sublist _ _ _), fun b hb => ?_⟩
    rcases allocate_listed _ _ _ b hb with hb | ⟨x, hx, bound, -, -, units⟩
    · cases hb
    · obtain ⟨mem, waiting, -, -⟩ := State.mem_candidates hx
      exact ⟨x.1, mem, bound, waiting, units⟩

theorem State.benchForm_fresh {s : State} (n : (s.lines.map Line.key).Nodup) (t : Tote) : s.Fresh (s.benchForm t).listed := by
  unfold State.benchForm
  split
  · exact ⟨List.nodup_nil, fun b hb => nomatch hb⟩
  · exact s.compute_fresh n _ _ _ _

theorem State.bidForm_fresh {s : State} (n : (s.lines.map Line.key).Nodup) (q : BidQuery) : s.Fresh (s.bidForm q).listed := by
  unfold State.bidForm
  split
  · exact s.compute_fresh n _ _ _ _
  · exact ⟨List.nodup_nil, fun b hb => nomatch hb⟩

/-! ### Urgency (R52) -/

theorem clampInt_eq {v a b : Int} (h : a ≤ b) : clampInt v a b = max a (min b v) := by
  unfold clampInt
  split
  · omega
  · split <;> omega

theorem urgency_eq (minute : Nat) (due : Int) : (urgency minute due : Int) = max 1 (min 63 (32 - (due - minute))) := by
  rw [urgency, clampInt_eq (by decide), Int.toNat_of_nonneg (by omega)]

end Sys2Proof.Machine

/-- Settles O24: the sort is an insertion sort by the due order, and the urgency a clamp. -/
theorem dueOrderAndUrgency : Obligations.DueOrderAndUrgency := by
  refine ⟨fun ls => ⟨sortDue_perm ls, sortDue_sorted ls⟩, fun minute due => ?_⟩
  have value := urgency_eq minute due
  refine ⟨fun _ => ?_, fun _ => ?_, fun _ => ?_, fun _ _ => ?_⟩ <;> omega
end

section
/-! SUPPORT. Task choice, release test, allocation pass and order-complete check keep floor and Line Table in form (R39, R57, R110, R111,
R128). -/

namespace Sys2Proof.Machine

/-! ### Entries and their lines -/

/-- The line of an entry is the one that the bench finds for it. -/
theorem LinesForm.entry {s : State} (h : LinesForm s) {r : Binding} {bs : List BoundLine} (hr : Holder s.contests s.floor r bs)
    {b : BoundLine} (hb : b ∈ bs) : ∃ l ∈ s.lines, l.Holds b r r.states ∧ s.lineOf b = some l := by
  obtain ⟨l, hl, holds⟩ := h.listing.holds r bs hr b hb
  exact ⟨l, hl, holds, State.lineOf_of_mem h.records.keys hl holds.key⟩

theorem State.boundIn_of_lineOf {s : State} {b : BoundLine} {l : Line} (h : s.lineOf b = some l) (st : LineState) :
    s.boundIn st b = (l.state == st) := by
  rw [State.boundIn, h, Option.any_some]

/-- A tote's list as one of the lists of the bench; an orphan's has no entry. -/
theorem LinesForm.tote_entry {s : State} (h : LinesForm s) {x : Tote} (hx : x ∈ s.floor.allTotes) {b : BoundLine} (hb : b ∈ x.bound) :
    ∃ t, x.id = some t ∧ Holder s.contests s.floor (.tote t) x.bound := by
  cases ht : x.id with
  | none =>
      rw [h.emptied.orphans x hx ht] at hb
      cases hb
  | some t => exact ⟨t, rfl, x, hx, ht, rfl⟩

/-- A line bound to a tote is on that tote's list. -/
theorem TableForm.listed_tote {s : State} (h : TableForm s) {x : Tote} (hx : x ∈ s.floor.allTotes) {t : ToteId} (ht : x.id = some t)
    {l : Line} (hl : l ∈ s.lines) (hr : l.binding = some (.tote t)) : l.key ∈ boundKeys x.bound := by
  obtain ⟨bs, ⟨y, hy, hyt, rfl⟩, b, hb, bound⟩ := h.lines.listing.listed l hl _ hr
  rw [Floor.tote_unique h.ids_nodup hx hy ht hyt, (l.isBound_iff b).1 bound]
  exact mem_boundKeys hb

/-- A task is lit on the tote that it names (R110). -/
theorem TableForm.litOn_task {s : State} (h : TableForm s) {k : Task} (hk : s.panel.task = some k) {x : Tote}
    (hx : x ∈ s.floor.allTotes) (ht : x.id = some k.tote) : s.litOn x = true := by
  obtain ⟨-, -, l, hl, lit⟩ := h.lines.task.lit k hk
  obtain ⟨b, hb, e⟩ := List.mem_map.1 (h.listed_tote hx ht hl lit.binding)
  refine List.any_eq_true.2 ⟨b, hb, ?_⟩
  rw [State.boundIn_of_mem h.lines.records.keys hl ((l.isBound_iff b).2 e.symm), lit.state]
  rfl

/-- On a tote on which no task is lit every listed line is RESERVED. -/
theorem LinesForm.dark_reserved {s : State} (h : LinesForm s) {x : Tote} (hx : x ∈ s.floor.allTotes) (dark : s.litOn x = false) :
    ∀ b ∈ x.bound, s.boundIn .reserved b = true := by
  intro b hb
  obtain ⟨t, -, held⟩ := h.tote_entry hx hb
  obtain ⟨l, -, holds, found⟩ := h.entry held hb
  have notActive := List.any_eq_false.1 dark b hb
  rw [State.boundIn_of_lineOf found] at notActive ⊢
  have state := holds.state
  simp only [Binding.states, List.mem_cons, List.not_mem_nil, or_false] at state
  rcases state with e | e
  · simp [e]
  · simp [e] at notActive

/-- Entries whose lines are RESERVED name no ACTIVE line. -/
theorem RecordsOk.idle_of_reserved {s : State} (h : RecordsOk s.lines) {bs : List BoundLine}
    (reserved : ∀ b ∈ bs, s.boundIn .reserved b = true) : ∀ l ∈ s.lines, l.key ∈ boundKeys bs → l.state ≠ .active := by
  intro l hl hk ha
  obtain ⟨b, hb, e⟩ := List.mem_map.1 hk
  have := reserved b hb
  rw [State.boundIn_of_mem h.keys hl ((l.isBound_iff b).2 e.symm), ha] at this
  cases this

/-! ### Lists of the tote at one port, shortened -/

/-- Freed lines leave the list of the tote at one port; the other lists stay. -/
theorem TableForm.freesAt {s : State} (h : TableForm s) {p : Nat} {q : Port} (hq : s.floor.port p = some q) {f : Port → Port} {fl : Floor}
    (lane : fl.lane = s.floor.lane) (ports : fl.ports = (s.floor.updPort p f).ports) (release : fl.releaseLane = s.floor.releaseLane)
    {T : OrderId × Byte → Prop} {g : Line → Line} (frees : Frees T s.lines g)
    (mine : ∀ l ∈ s.lines, T l.key → ∃ x t, q.tote = some x ∧ x.id = some t ∧ l.binding = some (.tote t))
    (source : ∀ r bs', (f q).Lists r bs' → bs' = [] ∨ ∃ bs, q.Lists r bs ∧ bs'.Sublist bs ∧ ∀ b ∈ bs', ¬T b.key)
    (target : ∀ r bs, q.Lists r bs → ∀ b ∈ bs, ¬T b.key → ∃ bs', (f q).Lists r bs' ∧ b ∈ bs') :
    Listing (s.lines.map g) (Holder s.contests fl) := by
  have nums := h.floor.nums
  -- A freed line is on no list but that of the tote at the port.
  have apart : ∀ r bs, Others s.contests s.floor p r bs → ∀ b ∈ bs, ¬T b.key := fun r bs hr b hb ht => by
    obtain ⟨l, hl, holds⟩ := h.lines.listing.holds r bs ((Holder.port_iff nums hq r bs).2 (.inl hr)) b hb
    obtain ⟨x, t, hx, hxt, bound⟩ := mine l hl (((l.isBound_iff b).1 holds.key).symm ▸ ht)
    cases holds.binding.symm.trans bound
    obtain ⟨y, hy, hyt, -⟩ := hr
    exact Floor.not_elsewhere nums h.ids_nodup hq hx hxt hy hyt
  refine h.lines.listing.frees frees (fun r bs' hr => ?_) (fun r bs hr b hb free => ?_)
  · rcases (Holder.updPort_iff nums hq f lane ports release r bs').1 hr with hr | hr
    · exact .inr ⟨bs', (Holder.port_iff nums hq r bs').2 (.inl hr), .refl _, apart r bs' hr⟩
    · exact (source r bs' hr).imp_right fun ⟨bs, hbs, rest⟩ => ⟨bs, (Holder.port_iff nums hq r bs).2 (.inr hbs), rest⟩
  · rcases (Holder.port_iff nums hq r bs).1 hr with hr | hr
    · exact ⟨bs, (Holder.updPort_iff nums hq f lane ports release r bs).2 (.inl hr), hb⟩
    · obtain ⟨bs', hbs', hb'⟩ := target r bs hr b hb free
      exact ⟨bs', (Holder.updPort_iff nums hq f lane ports release r bs').2 (.inr hbs'), hb'⟩

/-- The lists that must be empty, after one port's change. -/
theorem Floor.Emptied.ofPort {a b : Floor} (h : a.Emptied) (n : a.portNums.Nodup) {p : Nat} {q : Port} (hq : a.port p = some q)
    (f : Port → Port) (lane : b.lane = a.lane) (ports : b.ports = (a.updPort p f).ports) (release : b.releaseLane = a.releaseLane)
    (orphan : ∀ x, (f q).tote = some x → x.id = none → x.bound = [])
    (leaving : (f q).state = .releaseWait ∨ (f q).state = .releasing ∨ (f q).state = .faulted → ∀ x ∈ (f q).tote, x.bound = []) :
    b.Emptied := by
  refine ⟨fun x hx hn => ?_, fun m hm hs => ?_, release ▸ h.released⟩
  · rcases (Floor.mem_allTotes_updPort n hq f lane ports release x).1 hx with hx | hx
    · exact h.orphans x ((Floor.mem_allTotes_port n hq x).2 (.inl hx)) hn
    · exact orphan x hx hn
  · rw [ports, Floor.mem_updPort n hq] at hm
    rcases hm with rfl | ⟨hm, -⟩
    · exact leaving hs
    · exact h.leaving m hm hs

/-! ### To RELEASE_WAIT -/

/-- A port that has turned RELEASE_WAIT, its tote's list empty (R111). -/
def Port.waited (c : ReleaseCause) (q : Port) : Port :=
  { q with state := .releaseWait, tote := q.tote.map fun x => { x with cause := some c, bound := [] } }

/-- The floor with port `p` at the tail of the release-wait order (R111). -/
def Floor.waited (fl : Floor) (p : Nat) (c : ReleaseCause) : Floor :=
  { fl.updPort p (Port.waited c) with
    presentation := fl.presentation.filter (· != p), releaseWait := fl.releaseWait ++ [p] }

theorem State.toReleaseWait_eq (s : State) (p : Nat) (t : Tote) (c : ReleaseCause) :
    s.toReleaseWait p t c =
      State.grantRoom
        { s with lines := returnLines (t.bound.filter (s.boundIn .reserved)) s.lines, floor := s.floor.waited p c } := rfl

theorem FloorForm.waited {a : Floor} (h : FloorForm a) {p : Nat} {x : Tote} (hp : a.presentedTote p = some x) (c : ReleaseCause) :
    FloorForm (a.waited p c) := by
  obtain ⟨q, hq, hs, ht⟩ := presented_port hp
  have notWaiting : p ∉ a.releaseWait := fun hm => by
    simp [(h.exists_state_iff hq _).1 ((h.mem_releaseWait_iff p).1 hm)] at hs
  refine h.changePort hq (Port.waited c) (fun _ => rfl) rfl (by simp [Port.waited, ht]) ?_ ?_
    (.remove h.ok.presentation.1 (by simp [Port.waited])) (.append h.ok.releaseWait.1 notWaiting rfl)
  · simp [Port.waited, h.ok.timer q (Floor.port_mem hq).1, hs]
  · have := h.room
    simp only [Port.waited, hs, reduceCtorEq, if_false]
    exact this

theorem FloorStep.waited (a : Floor) (p : Nat) (c : ReleaseCause) : FloorStep a (a.waited p c) := by
  refine (FloorStep.updPort a p (Port.waited c) (fun _ => rfl) fun q => .inr ?_).trans (.of_same rfl rfl rfl)
  unfold Port.waited
  cases q.tote <;> rfl

namespace TableForm

variable {s : State}

theorem toReleaseWait (h : TableForm s) {p : Nat} {x : Tote} (hp : s.floor.presentedTote p = some x) (dark : s.litOn x = false)
    (c : ReleaseCause) : TableForm (s.toReleaseWait p x c) := by
  have hx := Floor.presentedTote_mem hp
  obtain ⟨q, hq, hs, ht⟩ := FloorForm.presented_port hp
  have reserved := h.lines.dark_reserved hx dark
  have idle := h.lines.records.idle_of_reserved reserved
  have frees := Frees.returned h.lines.records x.bound idle
  rw [State.toReleaseWait_eq, List.filter_eq_self.2 reserved]
  have waitedTote : (Port.waited c q).tote = some { x with cause := some c, bound := [] } := by rw [Port.waited, ht]; rfl
  have claims : ClaimsOk { s with lines := returnLines x.bound s.lines, floor := s.floor.waited p c } :=
    ClaimsOk.keeps.lines (s := { s with floor := s.floor.waited p c }) _ (ClaimsOk.keeps.floor _ (FloorStep.waited s.floor p c) h.claims)
  refine TableForm.grantRoom ⟨h.floor.waited hp c, claims, h.lines.records.frees frees, ?_, ?_, ?_⟩
  · refine h.freesAt hq (f := Port.waited c) (fl := s.floor.waited p c) rfl rfl rfl frees (fun l hl hk => ?_)
      (fun r bs' hr => .inl ?_) (fun r bs hr b hb free => ?_)
    · obtain ⟨b, hb, e⟩ := List.mem_map.1 hk
      obtain ⟨t, hxt, held⟩ := h.lines.tote_entry hx hb
      exact ⟨x, t, ht, hxt, (h.lines.listing.binding_of h.lines.records held hb hl e.symm).binding⟩
    · obtain ⟨y, hy, -, rfl⟩ := hr
      cases waitedTote.symm.trans hy
      rfl
    · obtain ⟨y, hy, -, rfl⟩ := hr
      cases ht.symm.trans hy
      exact absurd (mem_boundKeys hb) free
  · refine h.lines.emptied.ofPort h.floor.nums hq (Port.waited c) rfl rfl rfl (fun y hy _ => ?_) (fun _ y hy => ?_)
    all_goals
      cases waitedTote.symm.trans hy
      rfl
  · refine h.lines.task.frees frees idle fun k hk presented => ?_
    obtain ⟨y, hy, hyt⟩ := presented
    have elsewhere : k.port ≠ p := fun e => by
      rw [e, hp] at hy
      cases hy
      rw [h.litOn_task hk hx hyt] at dark
      cases dark
    refine ⟨y, ?_, hyt⟩
    rw [Floor.presentedTote_congr (show (s.floor.waited p c).ports = (s.floor.updPort p (Port.waited c)).ports from rfl),
      Floor.updPort_presentedTote_ne _ elsewhere (Port.waited c) fun _ => rfl]
    exact hy

/-! ### Binding (R57) -/

/-- A port whose tote has the entries `bs` joined to its list. -/
def joined (s : State) (bs : List BoundLine) (q : Port) : Port :=
  { q with tote := q.tote.map fun x => { x with bound := s.mergeBound bs x.bound } }

theorem bindPass_named {t : ToteId} {x : Tote} (ht : x.id = some t) (p : Nat) :
    s.bindPass p x =
      { s with
        lanes := (s.benchForm x).lanes, lines := bindLines (s.benchForm x).listed .reserved (.tote t) s.lines
        floor := s.floor.updPort p (joined s (s.benchForm x).listed) } := by
  unfold State.bindPass
  rw [ht]
  rfl

theorem bindPass_orphan {x : Tote} (ht : x.id = none) (p : Nat) : s.bindPass p x = { s with lanes := (s.benchForm x).lanes } := by
  unfold State.bindPass
  rw [ht]

theorem fresh_idle (h : TableForm s) {bs : List BoundLine} (fresh : s.Fresh bs) :
    ∀ l ∈ s.lines, l.key ∈ boundKeys bs → l.state ≠ .active := by
  intro l hl hk ha
  obtain ⟨b, hb, e⟩ := List.mem_map.1 hk
  obtain ⟨m, hm, bound, waiting, -⟩ := fresh.waiting b hb
  rw [← h.lines.records.same hl hm (e.symm.trans ((m.isBound_iff b).1 bound).symm), ha] at waiting
  cases waiting

theorem fresh_free (h : TableForm s) {bs : List BoundLine} (fresh : s.Fresh bs) :
    ∀ b ∈ bs, ∃ l ∈ s.lines, l.isBound b = true ∧ l.binding = none ∧ b.units ≤ l.requested - l.picked := fun b hb => by
  obtain ⟨l, hl, bound, waiting, units⟩ := fresh.waiting b hb
  exact ⟨l, hl, bound, Line.unbound_of_loose (h.lines.records.bindings l hl) (.inl waiting), units⟩

theorem bindPass (h : TableForm s) {p : Nat} {x : Tote} (hp : s.floor.presentedTote p = some x) : TableForm (s.bindPass p x) := by
  refine ⟨h.floor.bindPass p x, ClaimsOk.keeps.bindPass p x h.claims, ?_⟩
  have hx := Floor.presentedTote_mem hp
  obtain ⟨q, hq, hs, ht⟩ := FloorForm.presented_port hp
  have fresh := s.benchForm_fresh h.lines.records.keys x
  cases hid : x.id with
  | none =>
    rw [bindPass_orphan hid]
    exact ⟨h.lines.records, h.lines.listing, h.lines.emptied, h.lines.task⟩
  | some tid =>
    rw [bindPass_named hid]
    generalize (s.benchForm x).listed = bs at fresh ⊢
    let f : Port → Port := joined s bs
    have boundTote : (f q).tote = some { x with bound := s.mergeBound bs x.bound } := by simp only [f, joined, ht, Option.map_some]
    have merged := s.mergeBound_perm bs x.bound
    have nums := h.floor.nums
    have idle := h.fresh_idle fresh
    have newList : (f q).Lists (.tote tid) (s.mergeBound bs x.bound) := ⟨_, boundTote, by simp [hid], rfl⟩
    have after := fun r bs' => Holder.updPort_iff (cs := s.contests) (b := s.floor.updPort p f) nums hq f rfl rfl rfl r bs'
    have newHolder := (after _ _).2 (.inr newList)
    refine ⟨h.lines.records.bind (r := .tote tid) (by simp [Binding.states]) idle, ?_, ?_, ?_⟩
    · refine h.lines.listing.bind h.lines.records (by simp [Binding.states]) fresh.once (h.fresh_free fresh) (fun r bs' hr => ?_)
        (fun r old hr => ?_) ⟨_, newHolder, fun b hb => merged.symm.subset (List.mem_append_left _ hb)⟩
      · rcases (after r bs').1 hr with hr | hr
        · exact .inl ((Holder.port_iff nums hq r bs').2 (.inl hr))
        · obtain ⟨y, hy, hyt, rfl⟩ := hr
          cases boundTote.symm.trans hy
          rw [hid, Option.map_some] at hyt
          cases hyt
          exact .inr ⟨rfl, x.bound, .inr ⟨x, hx, hid, rfl⟩, merged⟩
      · rcases (Holder.port_iff nums hq r old).1 hr with hr | hr
        · exact ⟨old, (after r old).2 (.inl hr), fun _ => id⟩
        · obtain ⟨y, hy, hyt, rfl⟩ := hr
          cases ht.symm.trans hy
          rw [hid, Option.map_some] at hyt
          cases hyt
          exact ⟨_, newHolder, fun b hb => merged.symm.subset (List.mem_append_right _ hb)⟩
    · refine h.lines.emptied.ofPort nums hq f rfl rfl rfl (fun y hy hn => ?_) (fun hs' => ?_)
      · cases boundTote.symm.trans hy
        cases hid.symm.trans hn
      · simp only [f, joined, hs, reduceCtorEq, or_false] at hs'
    · refine h.lines.task.bind (by simp) idle fun k _ => ?_
      rintro ⟨y, hy, hyt⟩
      by_cases e : k.port = p
      · rw [e, hp] at hy
        cases hy
        refine ⟨{ x with bound := s.mergeBound bs x.bound }, ?_, hyt⟩
        have hf : (f q).state = .presented := hs
        rw [e, Floor.presentedTote, Floor.updPort_port_self hq f fun _ => rfl, Option.bind_some, hf]
        exact boundTote
      · exact ⟨y, (Floor.updPort_presentedTote_ne _ e f fun _ => rfl).trans hy, hyt⟩

/-! ### Task choice (R126 to R128) -/

theorem leastExposed_mem {xs : List (Nat × Tote)} {x : Nat × Tote} (h : leastExposed xs = some x) : x ∈ xs := by
  induction xs generalizing x with
  | nil => cases h
  | cons y ys ih =>
      unfold leastExposed at h
      split at h
      · cases h
        exact List.mem_cons_self
      · rename_i z hz
        split at h
        · cases h
          exact List.mem_cons_of_mem _ (ih hz)
        · cases h
          exact List.mem_cons_self

/-- The tote chosen stands at its PRESENTED port. -/
theorem chosenTote_presented {p : Nat} {x : Tote} (hc : s.chosenTote = some (p, x)) : s.floor.presentedTote p = some x := by
  have among : (p, x) ∈ s.presentedTotes := by
    unfold State.chosenTote at hc
    dsimp only at hc
    split at hc
    · rename_i y hy
      cases hc
      exact List.mem_of_mem_filter (List.mem_of_mem_filter (leastExposed_mem hy))
    · exact List.mem_of_mem_filter (List.mem_of_mem_head? hc)
  obtain ⟨n, -, hn⟩ := List.mem_filterMap.1 among
  obtain ⟨y, hy, e⟩ := Option.map_eq_some_iff.1 hn
  cases e
  exact hy

/-- A line made ACTIVE. -/
def lit (b : BoundLine) (l : Line) : Line := if l.hasKey b.order b.lineNo then { l with state := .active } else l

theorem lit_hit {b : BoundLine} {l : Line} (h : l.key = b.key) : lit b l = { l with state := .active } := if_pos ((l.hasKey_iff _ _).2 h)

theorem lit_miss {b : BoundLine} {l : Line} (h : l.key ≠ b.key) : lit b l = l := if_neg (mt (l.hasKey_iff _ _).1 h)

theorem lightTask (h : LinesForm s) (none : s.panel.task = none) {p : Nat} {x : Tote} (hp : s.floor.presentedTote p = some x)
    {t : ToteId} (ht : x.id = some t) {b : BoundLine} (hb : b ∈ x.bound) {l : Line} (hl : s.lineOf b = some l) :
    LinesForm (s.lightTask p t b l) := by
  obtain ⟨m, hm, holds, found⟩ := h.entry (r := .tote t) ⟨x, Floor.presentedTote_mem hp, ht, rfl⟩ hb
  cases hl.symm.trans found
  have key := (l.isBound_iff b).1 holds.key
  have hit : ∀ y ∈ s.lines, y.key = b.key → y = l := fun y hy hk => h.records.same hy hm (hk.trans key.symm)
  have fields : ∀ y : Line, (lit b y).key = y.key ∧ (lit b y).put = y.put ∧ (lit b y).binding = y.binding ∧
      (lit b y).picked = y.picked ∧ (lit b y).requested = y.requested := fun y => by
    unfold lit
    split <;> simp
  refine ⟨h.records.map (lit b) (fun y => (fields y).1) (fun y => (fields y).2.1) (fun y hy => ?_) (fun y hy => ?_),
    h.listing.restate (lit b) (fun y => (fields y).1) (fun y => (fields y).2.2.1) (fun y => ?_) (fun y hy r hr hst => ?_),
    h.emptied, ⟨fun k hk => ?_, List.forall_mem_map.2 fun y hy ha => ⟨_, rfl, ?_⟩⟩⟩
  · by_cases hk : y.key = b.key
    · rw [lit_hit hk]
      exact Line.bindingOk_active rfl (hit y hy hk ▸ holds.binding)
    · rw [lit_miss hk]
      exact h.records.bindings y hy
  · obtain ⟨-, -, -, picked, requested⟩ := fields y
    rw [picked, requested]
    exact h.records.picked y hy
  · obtain ⟨-, -, -, picked, requested⟩ := fields y
    rw [picked, requested]
  · by_cases hk : y.key = b.key
    · cases (hit y hy hk ▸ hr).symm.trans holds.binding
      rw [lit_hit hk]
      simp [Binding.states]
    · rwa [lit_miss hk]
  · cases hk
    exact ⟨le_rfl, ⟨x, hp, ht⟩, lit b l, List.mem_map_of_mem hm,
      by rw [(fields l).1]; exact key, by rw [lit_hit key], (fields l).2.2.1.trans holds.binding,
      by rw [(fields l).2.2.2.1, (fields l).2.2.2.2]; exact holds.units⟩
  · change (lit b y).key = b.key
    rw [(fields y).1]
    by_contra hk
    change (lit b y).state = .active at ha
    rw [lit_miss hk] at ha
    obtain ⟨k, hsome, -⟩ := h.task.active y hy ha
    cases none.symm.trans hsome

theorem taskChoice (h : TableForm s) : TableForm s.taskChoice := by
  refine ⟨by rw [State.taskChoice_floor]; exact h.floor, ClaimsOk.keeps.taskChoice h.claims, ?_⟩
  unfold State.taskChoice
  split
  · rename_i permitted
    have none : s.panel.task = none := by
      simp only [State.startsPermitted, Bool.and_eq_true, Option.isNone_iff_eq_none] at permitted
      exact permitted.1.1.1
    split
    · exact h.lines
    · rename_i p x chosen
      split
      · rename_i tid b hid found
        split
        · exact lightTask h.lines none (chosenTote_presented chosen) hid (List.mem_of_find?_eq_some found) ‹_›
        · exact h.lines
      · exact h.lines
  · exact h.lines

/-! ### Passes and tests -/

theorem testAfterPass (h : TableForm s) (p : Nat) : TableForm (s.testAfterPass p) := by
  unfold State.testAfterPass
  split
  · exact h
  · rename_i x hp
    split
    · exact h
    · rename_i untested
      simp only [Bool.or_eq_true, not_or, Bool.not_eq_true] at untested
      split
      · exact h.toReleaseWait hp untested.2 _
      · exact h

theorem allocationPass (h : TableForm s) (p : Nat) : TableForm (s.allocationPass p) := by
  unfold State.allocationPass
  split
  · exact h
  · rename_i x hp
    have tested := (h.bindPass hp).testAfterPass p
    dsimp only
    split
    · exact tested
    · exact tested.taskChoice

theorem releaseTest (h : TableForm s) (p : Nat) : TableForm (s.releaseTest p) := by
  unfold State.releaseTest
  split
  · exact h
  · rename_i x hp
    split
    · exact h
    · rename_i dark
      split
      · exact h.toReleaseWait hp (by simpa using dark) _
      · split
        · exact h.allocationPass p
        · exact h

theorem allPasses (h : TableForm s) : TableForm s.allPasses := foldl _ (fun p h => h.allocationPass p) _ h

theorem passesIf (b : Bool) (h : TableForm s) : TableForm (s.passesIf b) := by
  unfold State.passesIf
  split
  · exact h.allPasses
  · exact h

/-! ### Order-complete check (R39) -/

/-- Records bound to nothing leave the table. -/
theorem dropLoose (h : TableForm s) (p : Line → Bool) (gone : ∀ l ∈ s.lines, p l = false → l.state.loose) :
    TableForm { s with lines := s.lines.filter p } := by
  have stays : ∀ l ∈ s.lines, ¬l.state.loose → l ∈ s.lines.filter p := fun l hl hs =>
    List.mem_filter.2 ⟨hl, by_contra fun hp => hs (gone l hl (by simpa using hp))⟩
  refine ⟨h.floor, ClaimsOk.keeps.lines _ h.claims, h.lines.records.sublist List.filter_sublist,
    ⟨h.lines.listing.once, fun r bs hr b hb => ?_, fun l hl => h.lines.listing.listed l (List.mem_of_mem_filter hl)⟩, h.lines.emptied,
    ⟨fun k hk => ?_, fun l hl => h.lines.task.active l (List.mem_of_mem_filter hl)⟩⟩
  · obtain ⟨l, hl, holds⟩ := h.lines.listing.holds r bs hr b hb
    refine ⟨l, stays l hl fun hs => ?_, holds⟩
    cases (Line.unbound_of_loose (h.lines.records.bindings l hl) hs).symm.trans holds.binding
  · obtain ⟨display, presented, l, hl, lit⟩ := h.lines.task.lit k hk
    refine ⟨display, presented, l, stays l hl fun hs => ?_, lit⟩
    cases (Line.unbound_of_loose (h.lines.records.bindings l hl) hs).symm.trans lit.binding

theorem final_loose {st : LineState} (h : st.final = true) : st.loose := by
  cases st <;> simp_all [LineState.final, LineState.loose]

theorem orderCheck (h : TableForm s) (o : OrderId) : TableForm (s.orderCheck o) := by
  unfold State.orderCheck
  split
  · exact h
  · rename_i l ls orders
    dsimp only
    split
    · rename_i final
      refine TableForm.dropLoose (s := State.write (s.updPut _ _) _) (h.same ⟨rfl, rfl, rfl, rfl, rfl⟩) _ fun m hm hp => ?_
      have mine : m ∈ s.orderLines o := List.mem_filter.2 ⟨hm, by simpa using hp⟩
      rw [orders] at mine
      exact final_loose (List.all_eq_true.1 final m mine)
    · exact h

end TableForm

end Sys2Proof.Machine
end

section
/-! SUPPORT. Contests that are entered, end or land, exposure-spent events and seat timeouts keep floor and Line Table in form (R62,
R67, R72, R77, R96, R106). -/

namespace Sys2Proof.Machine

/-! ### Contests -/

/-- One list for one claim (R60). -/
theorem TableForm.contest_unique {s : State} (h : TableForm s) {t : ToteId} {bs bs' : List BoundLine}
    (hr : Holder s.contests s.floor (.contest t) bs) (hr' : Holder s.contests s.floor (.contest t) bs') : bs' = bs := by
  obtain ⟨c, hc, ht, rfl⟩ := hr
  obtain ⟨d, hd, ht', rfl⟩ := hr'
  rw [List.inj_on_of_nodup_map h.contests_nodup hd hc (ht'.trans ht.symm)]

/-- The lines of a claim are not ACTIVE. -/
theorem LinesForm.contest_idle {s : State} (h : LinesForm s) {t : ToteId} {bs : List BoundLine}
    (hr : Holder s.contests s.floor (.contest t) bs) : ∀ l ∈ s.lines, l.key ∈ boundKeys bs → l.state ≠ .active := by
  intro l hl hk ha
  obtain ⟨b, hb, e⟩ := List.mem_map.1 hk
  have state := (h.listing.binding_of h.records hr hb hl e.symm).state
  rw [ha] at state
  simp [Binding.states] at state

theorem State.contestOf_holder {s : State} {t : ToteId} {c : Contest} (h : s.contestOf t = some c) :
    Holder s.contests s.floor (.contest c.tote) c.bound := ⟨c, (State.contestOf_some h).1, rfl, rfl⟩

theorem SameTable.dropContest {a s : State} (h : SameTable a s) (t : ToteId) :
    SameTable { a with contests := a.contests.filter fun x => x.tote != t } { s with contests := s.contests.filter fun x => x.tote != t } :=
  ⟨h.lines, congrArg (List.filter _) h.contests, h.floor, h.task, h.cfg⟩

/-- What the steps of R62 leave of the tables before the passes that follow. -/
theorem State.endSteps_table (s : State) (c : Contest) (o : ContestOutcome) (n : Nat) :
    ∃ u : State, s.endSteps c o n = u.passesIf (!c.bound.isEmpty) ∧
      SameTable
        { s with
          lines := returnLines c.bound s.lines, contests := s.contests.filter fun x => x.tote != c.tote } u := by
  have withdrawn : SameTable { s with lines := returnLines c.bound s.lines }
      { s with queue := withdrawFrames c.tote s.queue, lines := returnLines c.bound s.lines } := ⟨rfl, rfl, rfl, rfl, rfl⟩
  have logged (u : State) : SameTable u (if claimEndDue c.state o then u.write (.claimEnd c.tote o c.key.score) else u) := by
    split
    · exact ⟨rfl, rfl, rfl, rfl, rfl⟩
    · exact .refl _
  have offered (u : State) : SameTable u (if o == .relinquished then u.reoffer c n else u) := by
    split
    · exact .reoffer u c n
    · exact .refl _
  exact ⟨_, rfl, ((withdrawn.trans (logged _)).trans (offered _)).dropContest c.tote⟩

namespace TableForm

variable {s : State}

/-- A claim that ends gives up its lines and its record (R62). -/
theorem endContest (h : TableForm s) {c : Contest} (hc : Holder s.contests s.floor (.contest c.tote) c.bound) (o : ContestOutcome)
    (n : Nat) : TableForm (s.endContest c o n) := by
  obtain ⟨u, ended, table⟩ := s.endSteps_table c o n
  rw [State.endContest, ended]
  refine (passesIf _ (TableForm.same ?_ table)).completionTest
  have idle := h.lines.contest_idle hc
  have frees := Frees.returned h.lines.records c.bound idle
  have claims : ClaimsOk { s with
      lines := returnLines c.bound s.lines, contests := s.contests.filter fun x => x.tote != c.tote } :=
    ClaimsOk.keeps.lines (s := { s with contests := s.contests.filter fun x => x.tote != c.tote }) _
      (ClaimsOk.keeps.dropContest _ h.claims)
  refine ⟨h.floor, claims, h.lines.records.frees frees, ?_, h.lines.emptied, h.lines.task.frees frees idle fun _ _ => id⟩
  have apart : ∀ r bs, r ≠ .contest c.tote → Holder s.contests s.floor r bs → ∀ b ∈ bs, b.key ∉ boundKeys c.bound := by
    intro r bs hne hr b hb hk
    obtain ⟨b', hb', e⟩ := List.mem_map.1 hk
    exact hne (h.lines.listing.holder_eq h.lines.records hr hc hb hb' e.symm)
  refine h.lines.listing.frees frees (fun r bs' hr => .inr ⟨bs', ?_⟩) (fun r bs hr b hb free => ⟨bs, ?_, hb⟩)
  · cases r with
    | contest t =>
        obtain ⟨d, hd, rfl, rfl⟩ := hr
        obtain ⟨mem, other⟩ := List.mem_filter.1 hd
        have held : Holder s.contests s.floor (.contest d.tote) d.bound := ⟨d, mem, rfl, rfl⟩
        exact ⟨held, .refl _, apart _ _ (by simpa using other) held⟩
    | tote t => exact ⟨hr, .refl _, apart (.tote t) _ (by simp) hr⟩
  · cases r with
    | contest t =>
        obtain ⟨d, hd, rfl, rfl⟩ := hr
        refine ⟨d, List.mem_filter.2 ⟨hd, ?_⟩, rfl, rfl⟩
        simp only [bne_iff_ne, ne_eq]
        intro e
        rw [h.contest_unique hc ⟨d, hd, e, rfl⟩] at hb
        exact free (mem_boundKeys hb)
    | tote t => exact hr

theorem endFound (h : TableForm s) {t : ToteId} {c : Contest} (hc : s.contestOf t = some c) (o : ContestOutcome) (n : Nat) :
    TableForm (s.endContest c o n) := h.endContest (State.contestOf_holder hc) o n

/-- Claims changed in place keep their totes and their lists. -/
theorem mapContests (h : TableForm s) (f : Contest → Contest) (tote : ∀ c, (f c).tote = c.tote) (bound : ∀ c, (f c).bound = c.bound) :
    TableForm { s with contests := s.contests.map f } := by
  have totes : (s.contests.map f).map (·.tote) = s.contests.map (·.tote) := by
    rw [List.map_map]
    exact List.map_congr_left fun c _ => tote c
  refine ⟨h.floor, ClaimsOk.keeps.contests _ (totes ▸ .refl _) h.claims, h.lines.records,
    h.lines.listing.congr fun r bs _ => ?_, h.lines.emptied, h.lines.task⟩
  cases r with
  | contest t =>
      simp only [Holder, List.mem_map, exists_exists_and_eq_and, tote, bound]
  | tote t => rfl

theorem updContest (h : TableForm s) (t : ToteId) (f : Contest → Contest) (tote : ∀ c, (f c).tote = c.tote)
    (bound : ∀ c, (f c).bound = c.bound) : TableForm (s.updContest t f) :=
  h.mapContests (fun c => if c.tote == t then f c else c) (fun c => by split <;> simp [tote]) (fun c => by split <;> simp [bound])

/-- A new claim binds the lines that its score counts (R67, R75). -/
theorem enter (h : TableForm s) {c : Contest} (hc : s.contestOf c.tote = none) (ht : s.toteStands c.tote = false)
    (hp : s.committed < s.cfg.places) (fresh : s.Fresh c.bound) : TableForm (s.enter c) := by
  have idle := h.fresh_idle fresh
  refine ⟨h.floor, h.claims.enter hc ht hp, h.lines.records.bind (r := .contest c.tote) (by simp [Binding.states]) idle, ?_,
    h.lines.emptied, h.lines.task.bind (by simp) idle fun _ _ => id⟩
  refine h.lines.listing.bind h.lines.records (by simp [Binding.states]) fresh.once (h.fresh_free fresh) (fun r bs' hr => ?_)
    (fun r old hr => ⟨old, ?_, fun _ => id⟩) ⟨c.bound, ⟨c, List.mem_append_right _ (by simp), rfl, rfl⟩, fun _ => id⟩
  · cases r with
    | contest t =>
        obtain ⟨d, hd, rfl, rfl⟩ := hr
        rcases List.mem_append.1 hd with hd | hd
        · exact .inl ⟨d, hd, rfl, rfl⟩
        · obtain rfl := List.mem_singleton.1 hd
          exact .inr ⟨rfl, [], .inl rfl, by simp⟩
    | tote t => exact .inl hr
  · cases r with
    | contest t =>
        obtain ⟨d, hd, rest⟩ := hr
        exact ⟨d, List.mem_append_left _ hd, rest⟩
    | tote t => exact hr

/-- An own TAKE carried turns the lines of the claim RESERVED (R72). -/
theorem reserve (h : TableForm s) {t : ToteId} {bs : List BoundLine} (hc : Holder s.contests s.floor (.contest t) bs) :
    TableForm { s with lines := bindLines bs .reserved (.contest t) s.lines } := by
  have idle := h.lines.contest_idle hc
  refine ⟨h.floor, ClaimsOk.keeps.lines _ h.claims, h.lines.records.bind (r := .contest t) (by simp [Binding.states]) idle, ?_,
    h.lines.emptied, h.lines.task.bind (by simp) idle fun _ _ => id⟩
  refine h.lines.listing.rebind h.lines.records (by simp [Binding.states]) hc (fun _ => h.contest_unique hc) fun r bs' => ?_
  by_cases e : r = .contest t
  · subst e
    simp only [ne_eq, not_true_eq_false, false_and, true_and, false_or]
    exact ⟨fun hr => h.contest_unique hc hr, fun e => e ▸ hc⟩
  · simp [e]

/-! ### Landing (R77) -/

theorem landed (h : TableForm s) {c : Contest} (hc : s.contestOf c.tote = some c) {x : Tote} (hx : x.id = some c.tote)
    (hb : x.bound = c.bound) :
    TableForm { s with
      contests := s.contests.filter fun y => y.tote != c.tote
      lines := bindLines c.bound .reserved (.tote c.tote) s.lines
      floor := { s.floor with lane := s.floor.lane ++ [x] } } := by
  have held := State.contestOf_holder hc
  have idle := h.lines.contest_idle held
  have claims := ClaimsOk.keeps.lines (bindLines c.bound .reserved (.tote c.tote) s.lines) (h.claims.landing hc hx)
  have stands : ∀ y, y ∈ ({ s.floor with lane := s.floor.lane ++ [x] } : Floor).allTotes ↔ y ∈ s.floor.allTotes ∨ y = x := fun y => by
    simp only [Floor.mem_allTotes, List.mem_append, List.mem_singleton]
    clear claims
    grind
  refine ⟨h.floor.withLane _, claims, h.lines.records.bind (r := .tote c.tote) (by simp [Binding.states]) idle, ?_,
    ⟨fun y hy hn => ?_, h.lines.emptied.leaving, h.lines.emptied.released⟩, h.lines.task.bind (by simp) idle fun _ _ => ?_⟩
  · refine h.lines.listing.rebind h.lines.records (by simp [Binding.states]) held (fun _ => h.contest_unique held) fun r bs' => ?_
    cases r with
    | contest t =>
        simp only [Holder, List.mem_filter, bne_iff_ne, ne_eq, Binding.contest.injEq, reduceCtorEq, false_and, or_false]
        constructor
        · rintro ⟨d, ⟨hd, hne⟩, rfl, rfl⟩
          exact ⟨hne, d, hd, rfl, rfl⟩
        · rintro ⟨hne, d, hd, rfl, rfl⟩
          exact ⟨d, ⟨hd, hne⟩, rfl, rfl⟩
    | tote t =>
        simp only [Holder, stands, ne_eq, reduceCtorEq, not_false_eq_true, true_and, Binding.tote.injEq, or_and_right, exists_or,
          exists_eq_left, hx, hb, Option.some.injEq]
        exact or_congr_right (and_congr eq_comm eq_comm)
  · rcases (stands y).1 hy with hy | rfl
    · exact h.lines.emptied.orphans y hy hn
    · cases hx.symm.trans hn
  · rintro ⟨y, hy, hyt⟩
    exact ⟨y, hy, hyt⟩

end TableForm

/-! ### The list of one tote shortened -/

/-- An entry stays off a part of its list exactly when its line is not named there. -/
theorem not_contains_iff {bs back : List BoundLine} (n : (boundKeys bs).Nodup) (sub : back ⊆ bs) {b : BoundLine} (hb : b ∈ bs) :
    (!back.contains b) = true ↔ b.key ∉ boundKeys back := by
  rw [Bool.not_eq_true', Bool.eq_false_iff, ne_eq, List.contains_iff_mem]
  refine not_congr ⟨mem_boundKeys, fun hk => ?_⟩
  obtain ⟨b', hb', e⟩ := List.mem_map.1 hk
  rwa [← List.inj_on_of_nodup_map n (sub hb') hb e]

theorem Floor.Emptied.mapTotes {a : Floor} (h : a.Emptied) (F : Tote → Tote) (id' : ∀ x, (F x).id = x.id)
    (sub : ∀ x, (F x).bound.Sublist x.bound) : (a.mapTotes F).Emptied := by
  have empty : ∀ x : Tote, x.bound = [] → (F x).bound = [] := fun x hx => List.sublist_nil.1 (hx ▸ sub x)
  refine ⟨fun x hx hn => ?_, fun q hq hs x hx => ?_, fun y hy x hx => ?_⟩
  · rw [Floor.mapTotes_allTotes] at hx
    obtain ⟨z, hz, rfl⟩ := List.mem_map.1 hx
    exact empty z (h.orphans z hz ((id' z).symm.trans hn))
  · obtain ⟨m, hm, rfl⟩ := List.mem_map.1 hq
    obtain ⟨z, hz, rfl⟩ := Option.map_eq_some_iff.1 hx
    exact empty z (h.leaving m hm hs z hz)
  · obtain ⟨z, hz, rfl⟩ := List.mem_map.1 hy
    obtain ⟨w, hw, rfl⟩ := Option.map_eq_some_iff.1 hx
    exact empty w (h.released z hz w hw)

theorem Floor.Presents.mapTotes {a : Floor} {p : Nat} {t : ToteId} (h : a.Presents p t) (F : Tote → Tote) (id' : ∀ x, (F x).id = x.id) :
    (a.mapTotes F).Presents p t := by
  obtain ⟨x, hx, ht⟩ := h
  exact ⟨F x, by rw [Floor.mapTotes_presentedTote, hx, Option.map_some], (id' x).trans ht⟩

namespace TableForm

variable {s : State}

/-- Freed lines of one tote leave its list; the other lists stay. -/
theorem freesTote (h : TableForm s) {t : ToteId} {F : Tote → Tote} (id' : ∀ x, (F x).id = x.id)
    (other : ∀ x, x.id ≠ some t → (F x).bound = x.bound) {T : OrderId × Byte → Prop} {g : Line → Line} (frees : Frees T s.lines g)
    (mine : ∀ l ∈ s.lines, T l.key → l.binding = some (.tote t))
    (sub : ∀ x, (F x).bound.Sublist x.bound)
    (keep : ∀ x ∈ s.floor.allTotes, x.id = some t → ∀ b ∈ x.bound, b ∈ (F x).bound ↔ ¬T b.key) :
    Listing (s.lines.map g) (Holder s.contests (s.floor.mapTotes F)) := by
  have apart : ∀ r bs, Holder s.contests s.floor r bs → r ≠ .tote t → ∀ b ∈ bs, ¬T b.key := fun r bs hr hne b hb hT => by
    obtain ⟨l, hl, holds⟩ := h.lines.listing.holds r bs hr b hb
    have bound := mine l hl (((l.isBound_iff b).1 holds.key).symm ▸ hT)
    exact hne (Option.some.inj (holds.binding.symm.trans bound))
  refine h.lines.listing.frees frees (fun r bs' hr => .inr ?_) (fun r bs hr b hb free => ?_)
  · cases r with
    | contest u => exact ⟨bs', hr, .refl _, apart (.contest u) bs' hr (by simp)⟩
    | tote u =>
        obtain ⟨y, hy, hyu, rfl⟩ := hr
        rw [Floor.mapTotes_allTotes] at hy
        obtain ⟨x, hx, rfl⟩ := List.mem_map.1 hy
        have held : Holder s.contests s.floor (.tote u) x.bound := ⟨x, hx, (id' x).symm.trans hyu, rfl⟩
        refine ⟨x.bound, held, sub x, fun b hb => ?_⟩
        by_cases e : x.id = some t
        · exact (keep x hx e b ((sub x).subset hb)).1 hb
        · rw [other x e] at hb
          refine apart _ _ held (fun eq => e ?_) b hb
          cases eq
          exact (id' x).symm.trans hyu
  · cases r with
    | contest u => exact ⟨bs, hr, hb⟩
    | tote u =>
        obtain ⟨x, hx, hxu, rfl⟩ := hr
        refine ⟨(F x).bound, ⟨F x, ?_, (id' x).trans hxu, rfl⟩, ?_⟩
        · rw [Floor.mapTotes_allTotes]
          exact List.mem_map_of_mem hx
        · by_cases e : x.id = some t
          · exact (keep x hx e b hb).2 free
          · rwa [other x e]

/-- RESERVED lines of one tote return to WAITING and leave its list (R96, R134). -/
theorem returnPart (h : TableForm s) {t : ToteId} {bs back : List BoundLine} (held : Holder s.contests s.floor (.tote t) bs)
    (part : back ⊆ bs) (reserved : ∀ b ∈ back, s.boundIn .reserved b = true) (G : Tote → Tote) (id' : ∀ y, (G y).id = y.id)
    (bound : ∀ y, (G y).bound = y.bound.filter fun b => !back.contains b) :
    TableForm { s.updTote t G with lines := returnLines back s.lines } := by
  have kept : ∀ y : Tote, (if y.isId t then G y else y).id = y.id := fun y => by
    split
    · exact id' y
    · rfl
  refine ⟨h.floor.mapTotes _, ClaimsOk.keeps.lines _ (ClaimsOk.keeps.updTote t G id' h.claims), ?_⟩
  have idle := h.lines.records.idle_of_reserved reserved
  have frees := Frees.returned h.lines.records back idle
  have sub : ∀ y : Tote, (if y.isId t then G y else y).bound.Sublist y.bound := fun y => by
    split
    · rw [bound]
      exact List.filter_sublist
    · exact .refl _
  refine ⟨h.lines.records.frees frees, ?_, h.lines.emptied.mapTotes _ kept sub,
    h.lines.task.frees frees idle fun _ _ hk => hk.mapTotes _ kept⟩
  refine h.freesTote (t := t) kept (fun y hy => ?_) frees (fun l hl hk => ?_) sub (fun y hy hyt b hb => ?_)
  · rw [if_neg (by simpa [Tote.isId] using hy)]
  · obtain ⟨b, hb, e⟩ := List.mem_map.1 hk
    exact (h.lines.listing.binding_of h.lines.records held (part hb) hl e.symm).binding
  · obtain ⟨z, hz, hzt, rfl⟩ := held
    obtain rfl := Floor.tote_unique h.ids_nodup hz hy hzt hyt
    rw [if_pos (by simpa [Tote.isId] using hyt), bound]
    have once := h.lines.listing.once (.tote t) z.bound ⟨z, hy, hyt, rfl⟩
    simp only [List.mem_filter, hb, true_and]
    exact not_contains_iff once part hb

/-! ### Exposure spent (R96) -/

/-- Steps 1 and 2 of R96, for a tote whose list stands as `x` has it. -/
theorem spendRecord (h : TableForm s) {t : ToteId} {x : Tote} (hx : Holder s.contests s.floor (.tote t) x.bound) :
    TableForm (s.spendRecord t x) :=
  (h.returnPart hx (List.filter_subset_self _) (fun _ hb => (List.mem_filter.1 hb).2)
    (fun y => { y with bound := y.bound.filter fun b => !(s.spentLines x).contains b, spentTaken := true }) (fun _ => rfl)
    fun _ => rfl).same ⟨rfl, rfl, rfl, rfl, rfl⟩

theorem spendRelease (h : TableForm s) (t : ToteId) : TableForm (s.spendRelease t) := by
  unfold State.spendRelease
  split
  · exact h.releaseTest _
  · exact h

theorem heldTotes_subset (fl : Floor) {x : Tote} (hx : x ∈ fl.heldTotes) : x ∈ fl.allTotes := List.mem_append_left _ hx

theorem spendIfDue (h : TableForm s) (t : ToteId) : TableForm (s.spendIfDue t) := by
  unfold State.spendIfDue
  split
  · exact h
  · rename_i x found
    split
    · have held : Holder s.contests s.floor (.tote t) x.bound :=
        ⟨x, heldTotes_subset _ (List.mem_of_find?_eq_some found), by simpa [Tote.isId] using List.find?_some found, rfl⟩
      exact ((h.spendRecord held).spendRelease t).passesIf _
    · exact h

/-- Steps 1 and 2 of R96 for several totes: none changes the list of another. -/
theorem spendRecords (ds : List (ToteId × Tote)) (h : TableForm s) (apart : (ds.map (·.1)).Nodup)
    (held : ∀ d ∈ ds, Holder s.contests s.floor (.tote d.1) d.2.bound) :
    TableForm (ds.foldl (fun x d => x.spendRecord d.1 d.2) s) := by
  induction ds generalizing s with
  | nil => exact h
  | cons d ds ih =>
      obtain ⟨fresh, rest⟩ := List.nodup_cons.1 apart
      refine ih (h.spendRecord (held d List.mem_cons_self)) rest fun e he => ?_
      obtain ⟨y, hy, hyt, same⟩ := held e (List.mem_cons_of_mem _ he)
      have other : e.1 ≠ d.1 := fun eq => fresh (List.mem_map.2 ⟨e, he, eq⟩)
      refine ⟨y, ?_, hyt, same⟩
      change y ∈ (s.floor.mapTotes _).allTotes
      rw [Floor.mapTotes_allTotes]
      exact List.mem_map.2 ⟨y, hy, if_neg (by simpa [Tote.isId, hyt] using other)⟩

theorem dueSpent_nodup (h : TableForm s) : (s.dueSpent.map (·.1)).Nodup := by
  have sub : (s.dueSpent.map (·.1)).Sublist (s.floor.heldTotes.filterMap (·.id)) := by
    unfold State.dueSpent
    generalize s.floor.heldTotes = xs
    induction xs with
    | nil => exact .refl _
    | cons x xs ih =>
        rw [List.filterMap_cons, List.filterMap_cons]
        cases x.id with
        | none => simpa using ih
        | some t =>
            split
            · rename_i none
              exact ih.cons t
            · rename_i d some'
              split at some'
              · cases some'
                exact ih.cons_cons t
              · cases some'
  have ids := h.ids_nodup
  rw [Floor.ids, Floor.allTotes, List.filterMap_append] at ids
  exact ids.of_append_left.sublist sub

theorem dueSpent_held {d : ToteId × Tote} (hd : d ∈ s.dueSpent) : d.2 ∈ s.floor.heldTotes ∧ d.2.id = some d.1 := by
  obtain ⟨x, hx, e⟩ := List.mem_filterMap.1 hd
  split at e
  · obtain ⟨t, ht, rfl⟩ := Option.map_eq_some_iff.1 e
    exact ⟨hx, ht⟩
  · cases e

theorem spendAll (h : TableForm s) : TableForm s.spendAll := by
  unfold State.spendAll
  refine foldl _ (fun _ h => h.allPasses) _ (foldl _ (fun d h => h.spendRelease d.1) _ (spendRecords _ h h.dueSpent_nodup fun d hd => ?_))
  obtain ⟨mem, ht⟩ := dueSpent_held hd
  exact ⟨d.2, heldTotes_subset _ mem, ht, rfl⟩

/-! ### Seat timeout (R106) -/

/-- A port that has turned FAULTED, the lines `back` off its tote's list (R106). -/
def faulted (back : List BoundLine) (q : Port) : Port :=
  { q with
    state := .faulted, seatTimer := none, tote := q.tote.map fun x => { x with bound := x.bound.filter fun b => !back.contains b } }

theorem updPort_updPort (a : Floor) (p : Nat) (f g : Port → Port) (hf : ∀ q, (f q).num = q.num) :
    (a.updPort p f).updPort p g = a.updPort p (g ∘ f) := by
  simp only [Floor.updPort, List.map_map]
  congr 1
  refine List.map_congr_left fun q _ => ?_
  by_cases e : q.num = p
  · simp [e, hf]
  · simp [e]

/-- A tote that is not PRESENTED has no lit task. -/
theorem dark_of_idle (h : TableForm s) {p : Nat} {q : Port} (hq : s.floor.port p = some q) (idle : q.state ≠ .presented) {x : Tote}
    (hx : q.tote = some x) : s.litOn x = false := by
  rw [State.litOn, Bool.eq_false_iff, ne_eq, List.any_eq_true]
  rintro ⟨b, hb, active⟩
  have mem : x ∈ s.floor.allTotes := Floor.mem_allTotes.2 (.inr (.inl ⟨q, (Floor.port_mem hq).1, hx⟩))
  obtain ⟨t, hxt, held⟩ := h.lines.tote_entry mem hb
  obtain ⟨l, hl, holds, found⟩ := h.lines.entry held hb
  rw [State.boundIn_of_lineOf found, beq_iff_eq] at active
  obtain ⟨k, hk, key⟩ := h.lines.task.active l hl active
  obtain ⟨-, ⟨y, hy, hyt⟩, m, hm, lit⟩ := h.lines.task.lit k hk
  obtain rfl := h.lines.records.same hl hm (key.trans lit.key.symm)
  cases holds.binding.symm.trans lit.binding
  obtain ⟨q', hq', hs', ht'⟩ := FloorForm.presented_port hy
  have apart : q.num ≠ k.port := fun e => by
    rw [← e, (Floor.port_mem hq).2, hq] at hq'
    cases hq'
    exact idle hs'
  exact Floor.not_elsewhere h.floor.nums h.ids_nodup hq' ht' hyt (.inr (.inl ⟨q, (Floor.port_mem hq).1, apart, hx⟩)) hxt

theorem seatTimeout (h : TableForm s) (p : Nat) : TableForm (s.seatTimeout p) := by
  unfold State.seatTimeout
  split
  · exact h
  · rename_i q hq
    split
    · rename_i inbound
      have hs : q.state = .inbound := by simpa using inbound
      refine passesIf _ ?_
      have mem := (Floor.port_mem hq).1
      obtain ⟨x, hx⟩ : ∃ x, q.tote = some x :=
        Option.ne_none_iff_exists'.1 fun hn => by simp [(h.floor.ok.held q mem).1 hn] at hs
      have hxm : x ∈ s.floor.allTotes := Floor.mem_allTotes.2 (.inr (.inl ⟨q, mem, hx⟩))
      have reserved := h.lines.dark_reserved hxm (h.dark_of_idle hq (by simp [hs]) hx)
      have idle := h.lines.records.idle_of_reserved reserved
      have frees := Frees.returned h.lines.records x.bound idle
      have whole : (x.bound.filter (s.boundIn .reserved)) = x.bound := List.filter_eq_self.2 reserved
      refine TableForm.same (a := { s with lines := returnLines x.bound s.lines, floor := s.floor.updPort p (faulted x.bound) }) ?_
        ⟨?_, rfl, ?_, rfl, rfl⟩
      · have emptyTote : (faulted x.bound q).tote = some { x with bound := [] } := by simp [faulted, hx]
        refine ⟨h.floor.changeIdle hq (faulted x.bound) (fun _ => rfl) rfl (.inr (.inl hs)) (.inr (.inr rfl)) (by simp [faulted, hx])
          (by simp [faulted]) rfl rfl rfl, ?_, h.lines.records.frees frees, ?_, ?_, h.lines.task.frees frees idle fun k _ => ?_⟩
        · refine ClaimsOk.keeps.lines (s := s.updPort p (faulted x.bound)) _
            (ClaimsOk.keeps.updPort _ _ (fun _ => rfl) (fun m => .inr ?_) h.claims)
          unfold faulted
          cases m.tote <;> rfl
        · refine h.freesAt hq (f := faulted x.bound) (fl := s.floor.updPort p (faulted x.bound)) rfl rfl rfl frees (fun l hl hk => ?_)
            (fun r bs' hr => .inl ?_) (fun r bs hr b hb free => ?_)
          · obtain ⟨b, hb, e⟩ := List.mem_map.1 hk
            obtain ⟨t, hxt, held⟩ := h.lines.tote_entry hxm hb
            exact ⟨x, t, hx, hxt, (h.lines.listing.binding_of h.lines.records held hb hl e.symm).binding⟩
          · obtain ⟨y, hy, -, rfl⟩ := hr
            cases emptyTote.symm.trans hy
            rfl
          · obtain ⟨y, hy, -, rfl⟩ := hr
            cases hx.symm.trans hy
            exact absurd (mem_boundKeys hb) free
        · refine h.lines.emptied.ofPort h.floor.nums hq (faulted x.bound) rfl rfl rfl (fun y hy _ => ?_) (fun _ y hy => ?_)
          all_goals
            cases emptyTote.symm.trans hy
            rfl
        · rintro ⟨y, hy, hyt⟩
          have elsewhere : k.port ≠ p := fun e => by
            obtain ⟨q', hq', hs', -⟩ := FloorForm.presented_port hy
            rw [e, hq] at hq'
            cases hq'
            simp [hs] at hs'
          exact ⟨y, (Floor.updPort_presentedTote_ne _ elsewhere (faulted x.bound) fun _ => rfl).trans hy, hyt⟩
      · simp only [hx, Option.map_some, Option.getD_some]
        exact congrArg (returnLines · s.lines) whole
      · simp only [hx, Option.map_some, Option.getD_some]
        have same : (State.reservedOf (State.recordFault (s.updPort p fun x => { x with state := .faulted, seatTimer := none })
            .seatTimeout p ((q.tote.bind (·.id)).getD 0) []) x.bound) = x.bound := whole
        rw [hx] at same
        rw [same]
        exact updPort_updPort s.floor p (fun m => { m with state := .faulted, seatTimer := none }) (fun m =>
          { m with tote := m.tote.map fun y => { y with bound := y.bound.filter fun b => !x.bound.contains b } }) fun _ => rfl
    · exact h

end TableForm

end Sys2Proof.Machine
end

section
/-! SUPPORT. Contest frames, round closes, the Slot Tracker's commands and landings keep floor and Line Table in form (R66 to R82, R4 to
R20). -/

namespace Sys2Proof.Machine

namespace TableForm

variable {s : State}

/-- A step beside the table. -/
theorem beside {a : State} (h : TableForm a) (lines : s.lines = a.lines := by rfl) (contests : s.contests = a.contests := by rfl)
    (floor : s.floor = a.floor := by rfl) (task : s.panel.task = a.panel.task := by rfl) (cfg : s.cfg = a.cfg := by rfl) :
    TableForm s := h.same ⟨lines, contests, floor, task, cfg⟩

/-- A claim changed in place still has its list. -/
theorem updContest_holder {t : ToteId} {c : Contest} (hc : s.contestOf t = some c) (u : ToteId) (f : Contest → Contest)
    (tote : ∀ c, (f c).tote = c.tote) (bound : ∀ c, (f c).bound = c.bound) :
    Holder (s.updContest u f).contests s.floor (.contest c.tote) c.bound :=
  ⟨_, List.mem_map_of_mem (State.contestOf_some hc).1, by split <;> simp [tote], by split <;> simp [bound]⟩

/-! ### Contest frames -/

theorem takeBid (h : TableForm s) (k : Key) (t : ToteId) : TableForm (s.takeBid k t) := by
  unfold State.takeBid
  split
  · exact h
  · split
    · exact h
    · rename_i c hc
      have heard := fun best => h.updContest t (fun x => { x with bestOther := some best }) (fun _ => rfl) fun _ => rfl
      split
      · dsimp only
        split
        · exact (heard _).endContest (c := { c with bestOther := some (betterKey c.bestOther k) })
            (updContest_holder hc t _ (fun _ => rfl) fun _ => rfl) _ _
        · exact heard _
      · exact heard _
      all_goals exact h

theorem takeTake (h : TableForm s) (k : Key) (t : ToteId) : TableForm (s.takeTake k t) := by
  have held : TableForm (s.holdBy k t) := h.beside
  unfold State.takeTake
  dsimp only
  split
  · exact held
  · split
    · exact held
    · rename_i c hc
      split
      case h_1 | h_2 => exact held.endFound hc _ _
      case h_3 | h_4 | h_5 =>
        split
        · exact held.endFound hc _ _
        · exact held
      case h_6 => exact held

theorem endGone (h : TableForm s) (t : ToteId) : TableForm (s.endGone t) := by
  unfold State.endGone
  split
  · exact h
  · rename_i c hc
    split
    case h_6 => exact h
    all_goals exact h.endFound hc _ _

theorem takeLanded (h : TableForm s) (n : Nat) (t : ToteId) : TableForm (s.takeLanded n t) := by
  have gone : TableForm (s.forget t) := h.beside
  unfold State.takeLanded
  dsimp only
  split
  · exact gone
  · exact gone.endGone t

theorem takeExit (h : TableForm s) (t : ToteId) : TableForm (s.takeExit t) := endGone (s := s.forget t) h.beside t

theorem closeRound (h : TableForm s) {t : ToteId} {c : Contest} (hc : s.contestOf t = some c) : TableForm (s.closeRound c) := by
  unfold State.closeRound
  split
  · split
    · exact h.endFound hc _ _
    · split
      · exact (h.updContest c.tote (fun x => { x with state := .won, roundTimer := none }) (fun _ => rfl) fun _ => rfl).queueFrame _
      · exact h.endFound hc _ _
  · exact h.endFound hc _ _
  all_goals exact h

theorem expireRound (h : TableForm s) (t : ToteId) : TableForm (s.expireRound t) := by
  unfold State.expireRound
  split
  · exact h
  · rename_i c hc
    split
    · exact closeRound (s := s.roundOver t) h.beside (t := t) hc
    · exact h

theorem requeueTake (h : TableForm s) (t : ToteId) : TableForm (s.requeueTake t) := by
  unfold State.requeueTake
  split
  · exact h
  · rename_i c hc
    split
    · split
      · exact h.queueFrame _
      · exact h.endFound hc _ _
    · exact h

theorem ownBidCarried (h : TableForm s) (t : ToteId) : TableForm (s.ownBidCarried t) := by
  unfold State.ownBidCarried
  split
  · exact h
  · split
    · exact h.updContest t _ (fun _ => rfl) fun _ => rfl
    · exact h

/-- An own TAKE carried makes the record CLAIMED, with its lines RESERVED (R72). -/
theorem ownTakeCarried (h : TableForm s) (t : ToteId) : TableForm (s.ownTakeCarried t) := by
  unfold State.ownTakeCarried
  split
  · exact h
  · rename_i c hc
    split
    · obtain rfl := (State.contestOf_some hc).2
      have held := updContest_holder hc c.tote Contest.asClaimed (fun _ => rfl) fun _ => rfl
      have claimed := (h.updContest c.tote Contest.asClaimed (fun _ => rfl) fun _ => rfl).reserve held
      dsimp only
      split
      · exact claimed.endContest (c := c.asClaimed) held _ _
      · exact claimed
    · exact h

theorem lapseIfDue (h : TableForm s) (t : ToteId) : TableForm (s.lapseIfDue t) := by
  unfold State.lapseIfDue
  split
  · exact h
  · rename_i c hc
    split
    · exact h.endFound hc _ _
    · exact h

theorem slotPassage (h : TableForm s) (n : Nat) : TableForm (s.slotPassage n) := by
  refine foldl _ (fun t h => h.lapseIfDue t) _ (h.mapContests (Contest.passage n) (fun c => ?_) fun c => ?_)
  all_goals
    unfold Contest.passage
    split
    case h_1 | h_2 => split <;> rfl
    all_goals rfl

/-! ### Claims entered (R67, R75) -/

theorem lateTake (h : TableForm s) {t : ToteId} (n : Nat) (hc : s.contestOf t = none) (ht : s.toteStands t = false) :
    TableForm (s.lateTake t n) := by
  unfold State.lateTake
  split
  · exact h
  · rename_i r hr
    obtain rfl : r.tote = t := by simpa using List.find?_some hr
    split
    · have scored : TableForm { s with lanes := (s.bidForm (s.lateQuery r)).lanes } := h.beside
      have fresh := s.bidForm_fresh h.lines.records.keys (s.lateQuery r)
      dsimp only
      split
      · exact scored
      · rename_i positive
        exact (scored.enter (c := State.lateRecord s r n (s.bidForm (s.lateQuery r))) hc ht
          (KeepsAll.committed_of_eligible (KeepsAll.eligible_of_score positive)) ⟨fresh.once, fresh.waiting⟩).queueFrame _
    · exact h

theorem handReport (h : TableForm s) (t : ToteId) (n : Nat) : TableForm (s.handReport t n) := by
  unfold State.handReport
  split
  · split
    · exact h.updContest t _ (fun _ => rfl) fun _ => rfl
    · exact h
  · rename_i hc
    split
    · exact h
    · rename_i ht
      exact h.lateTake n hc (by simpa using ht)

theorem scoreOffer (h : TableForm s) {o : OfferFrame} (hc : s.contestOf o.tote = none) (ht : s.toteStands o.tote = false) :
    TableForm (s.scoreOffer o) := by
  have scored : TableForm { s with lanes := (s.bidForm (s.offerQuery o)).lanes } := h.beside
  have fresh := s.bidForm_fresh h.lines.records.keys (s.offerQuery o)
  unfold State.scoreOffer
  dsimp only
  split
  · exact scored
  · rename_i positive
    exact (scored.enter (c := State.offerRecord s o (s.bidForm (s.offerQuery o))) hc ht
      (KeepsAll.committed_of_eligible (KeepsAll.eligible_of_score positive)) ⟨fresh.once, fresh.waiting⟩).queueFrame _

theorem handleOffer (h : TableForm s) (o : OfferFrame) : TableForm (s.handleOffer o) := by
  unfold State.handleOffer
  split
  · exact h
  · rename_i stands
    have ht : s.toteStands o.tote = false := by simpa using stands
    split
    · rename_i hc
      exact h.scoreOffer hc ht
    · rename_i c hc
      have same := (State.contestOf_some hc).2
      have again : ∀ r, TableForm ((s.endContest c r c.slot).scoreOffer o) := fun r => by
        have ended := h.endFound hc r c.slot
        exact ended.scoreOffer (same ▸ State.endContest_gone s c r c.slot)
          ((KeepsAll.noTote o.tote).endContest c r c.slot (fun _ => ht) ended.floor.nums)
      split
      · exact h
      · split
        · exact h
        · exact again _
      · split
        · exact h
        · exact again _
      all_goals exact again _

theorem takeOffer (h : TableForm s) (o : OfferFrame) : TableForm (s.takeOffer o) := by
  unfold State.takeOffer
  split
  · exact h.beside
  · exact handleOffer (s := { s with roster := refreshRoster s.roster (s.offerEntry o) }) h.beside o

/-! ### Slot Tracker -/

theorem homeMark (h : TableForm s) : TableForm s.homeMark := by
  unfold State.homeMark
  split
  · split
    · exact h
    · exact slotPassage (s := State.relabel (State.updTracker (s.recordFault ..) _)) h.beside 0
  · exact slotPassage (s := State.relabel (s.updTracker _)) h.beside 0

theorem readerReport (h : TableForm s) (r : ReaderReport) : TableForm (s.readerReport r) := by
  unfold State.readerReport
  split
  · exact h
  · unfold State.firstReport
    split
    · exact h.beside
    · exact h.beside
    · split
      · exact h.beside
      · dsimp only
        split
        · exact handReport (s := State.addApproach (s.updTracker _) _) h.beside _ _
        · exact h.beside

theorem divertHead (h : TableForm s) : TableForm s.divertHead := by
  unfold State.divertHead
  split
  · exact h
  · split
    · dsimp only
      split
      · exact h.beside
      · exact (updContest (s := s.updTracker _) h.beside _ (fun c => { c with state := .diverting }) (fun _ => rfl) fun _ => rfl).beside
    · exact h

theorem missHead (h : TableForm s) : TableForm s.missHead := by
  unfold State.missHead
  split
  · exact h
  · split
    · unfold State.missTote
      split
      · exact h.beside
      · rename_i c hc
        split
        · exact endFound (s := (s.updTracker _).recordFault ..) h.beside hc _ _
        · exact h.beside
    · exact h

theorem missUpTo (n : Nat) (h : TableForm s) : TableForm (s.missUpTo n) := by
  induction n generalizing s with
  | zero => exact h
  | succ n ih => exact ih h.missHead

theorem closeWindow (h : TableForm s) : TableForm s.closeWindow := by
  unfold State.closeWindow
  dsimp only
  split
  · exact h.beside
  · exact h.beside

theorem movePhase (h : TableForm s) : TableForm s.movePhase := by
  unfold State.movePhase
  dsimp only
  split
  · exact slotPassage (s := s.updTracker _) h.beside _
  · exact h.beside

theorem ageWatch (h : TableForm s) : TableForm s.ageWatch := missUpTo (s := s.updTracker _) _ h.beside

theorem ageApproach (h : TableForm s) : TableForm s.ageApproach := divertHead (s := s.updTracker _) h.beside

theorem fullCount (h : TableForm s) : TableForm s.fullCount :=
  (closeWindow (s := s.updTracker _) h.beside).movePhase.ageWatch.ageApproach.beside

theorem encoderPulse (h : TableForm s) : TableForm s.encoderPulse := by
  unfold State.encoderPulse
  split
  · exact h.fullCount
  · exact h.beside

/-! ### Landing (R77) -/

theorem land (h : TableForm s) {c : Contest} (hc : s.contestOf c.tote = some c) : TableForm (s.land c) := by
  have landed := h.landed hc (x := c.toTote s.now) rfl rfl
  exact ((queueFrame (s := State.forget (State.write _ _) _) landed.beside _).spendIfDue _).route.completionTest

theorem laneEntry (h : TableForm s) : TableForm s.laneEntry := by
  unfold State.laneEntry
  split
  · exact h
  · have left : ∀ rest, TableForm (s.updTracker fun x => { x with watch := rest }) := fun _ => h.beside
    unfold State.confirmLanding
    split
    · exact left _
    · rename_i c hc
      split
      · exact (left _).land ((State.contestOf_some hc).2 ▸ hc)
      · exact left _

end TableForm

end Sys2Proof.Machine
end

section
/-! SUPPORT. The Port Sequencer, the put wall, the picker panel and the clock keep floor and Line Table in form (R95 to R116, R129 to
R139). -/

namespace Sys2Proof.Machine

/-! ### Floors that carry their lists -/

theorem Floor.Carries.recordSeat {a : Floor} (ha : a.Emptied) (p : Nat) (b : Bool) :
    a.Carries (a.updPort p fun q => { q with occupied := b }) := by
  have totes : (a.updPort p fun q => { q with occupied := b }).allTotes = a.allTotes := by
    simp only [Floor.allTotes, Floor.heldTotes, Floor.updPort, List.filterMap_map]
    congr 3
    funext q
    rw [Function.comp_apply]
    split <;> rfl
  refine ⟨fun x hx _ => ⟨x, totes ▸ hx, rfl, rfl⟩, fun x hx _ => ⟨x, totes ▸ hx, rfl, rfl⟩, fun q hq => ?_, ha.released, fun n t => ?_⟩
  · obtain ⟨m, hm, rfl⟩ := List.mem_map.1 hq
    have leaving := ha.leaving m hm
    split
    · exact leaving
    · exact leaving
  · have same : (a.updPort p fun q => { q with occupied := b }).presentedTote n = a.presentedTote n := by
      rw [Floor.presentedTote, Floor.updPort_port _ _ _ (fun q => { q with occupied := b }) fun _ => rfl, Floor.presentedTote]
      cases a.port n with
      | none => rfl
      | some q =>
          rw [Option.map_some]
          split <;> rfl
    rw [Floor.Presents, Floor.Presents, same]
    exact id

/-- The record at the head of the release lane leaves the floor (R115). -/
theorem Floor.Carries.dropHead {a : Floor} (ha : a.Emptied) {x : Option Tote} {rest : List (Option Tote)} (e : a.releaseLane = x :: rest) :
    a.Carries { a with releaseLane := rest } := by
  have out : ∀ y : Tote, y.bound ≠ [] → some y ∉ a.releaseLane := fun y hy hm => hy (ha.released _ hm y rfl)
  have part : ∀ y, y ∈ rest → y ∈ a.releaseLane := fun y hy => e ▸ List.mem_cons_of_mem _ hy
  refine ⟨fun y hy hb => ⟨y, ?_, rfl, rfl⟩, fun y hy _ => ⟨y, ?_, rfl, rfl⟩, ha.leaving, fun y hy => ha.released y (part y hy),
    fun _ _ => id⟩
  · rw [Floor.mem_allTotes] at hy ⊢
    exact hy.imp_right (·.imp_right fun hm => absurd hm (out y hb))
  · rw [Floor.mem_allTotes] at hy ⊢
    exact hy.imp_right (·.imp_right (part _))

namespace FloorForm

variable {a : Floor}

/-- A seat event (R104). -/
theorem seated (h : FloorForm a) {p : Nat} {q : Port} (hq : a.port p = some q) (hs : q.state = .inbound) :
    FloorForm { a.updPort p Port.seated with presentation := a.presentation ++ [p] } := by
  have room := h.room
  have notPresented : p ∉ a.presentation := fun hm => by
    simp [(h.exists_state_iff hq _).1 ((h.mem_presentation_iff p).1 hm)] at hs
  refine h.changePort hq Port.seated (fun _ => rfl) rfl ?_ (by simp [Port.seated]) ?_ (.append h.ok.presentation.1 notPresented rfl)
    (h.releaseWait_same hq (by simp [Port.seated, hs]))
  · simp [Port.seated, h.ok.held q (Floor.port_mem hq).1, hs]
  · simp only [Port.seated, hs, reduceCtorEq, if_false]
    exact room

/-- A port-clear event (R114). -/
theorem cleared (h : FloorForm a) {p : Nat} {q : Port} (hq : a.port p = some q) (hs : q.state = .releasing) (x : Tote) :
    FloorForm { a.updPort p (fun q => { q.vacate with occupied := false }) with releaseLane := a.releaseLane ++ [some x] } := by
  have room := h.room
  refine h.changePort hq (fun q => { q.vacate with occupied := false }) (fun _ => rfl) rfl (by simp [Port.vacate])
    (by simp [Port.vacate]) ?_ (h.presentation_same hq (by simp [hs, Port.vacate])) (h.releaseWait_same hq (by simp [hs, Port.vacate]))
  simp only [hs, Port.vacate, reduceCtorEq, if_true, if_false, List.length_append, List.length_singleton]
  omega

end FloorForm

/-! ### The task's line -/

theorem LinesForm.taskLine {s : State} (h : LinesForm s) {k : Task} (hk : s.panel.task = some k) :
    ∃ l, s.taskLine k = some l ∧ l ∈ s.lines ∧ l.Lit k ∧ ∀ m ∈ s.lines, m.hasKey k.order k.lineNo = true → m = l := by
  obtain ⟨-, -, l, hl, lit⟩ := h.task.lit k hk
  have only : ∀ m ∈ s.lines, m.hasKey k.order k.lineNo = true → m = l := fun m hm key =>
    h.records.same hm hl (((m.hasKey_iff _ _).1 key).trans lit.key.symm)
  have hit : l.hasKey k.order k.lineNo = true := (l.hasKey_iff _ _).2 lit.key
  obtain ⟨m, hm⟩ := Option.isSome_iff_exists.1 ((List.find?_isSome (p := fun x => Line.hasKey x k.order k.lineNo)).2 ⟨l, hl, hit⟩)
  have key : m.hasKey k.order k.lineNo = true := by simpa using List.find?_some hm
  obtain rfl := only m (List.mem_of_find?_eq_some hm) key
  exact ⟨m, hm, hl, lit, only⟩

/-- One record changed. -/
def atKey (o : OrderId) (n : Byte) (f : Line → Line) (l : Line) : Line := if l.hasKey o n then f l else l

theorem State.updLine_lines (s : State) (o : OrderId) (n : Byte) (f : Line → Line) :
    (s.updLine o n f).lines = s.lines.map (atKey o n f) := rfl

theorem atKey_hit {o : OrderId} {n : Byte} {l : Line} (f : Line → Line) (h : l.hasKey o n = true) : atKey o n f l = f l := if_pos h

theorem atKey_miss {o : OrderId} {n : Byte} {l : Line} (f : Line → Line) (h : l.key ≠ (o, n)) : atKey o n f l = l :=
  if_neg (mt (l.hasKey_iff o n).1 h)

theorem Frees.atKey {ls : List Line} (rs : RecordsOk ls) (o : OrderId) (n : Byte) (f : Line → Line) (key : ∀ l, (f l).key = l.key)
    (put : ∀ l, (f l).put = l.put)
    (freed : ∀ l ∈ ls, l.hasKey o n = true →
      (f l).state.loose ∧ (f l).binding = none ∧ (f l).cancelPending = false ∧ (f l).picked ≤ (f l).requested) :
    Frees (· = (o, n)) ls (atKey o n f) := by
  have hit : ∀ l : Line, l.key = (o, n) → l.hasKey o n = true := fun l => (l.hasKey_iff o n).2
  refine ⟨fun l => ?_, fun l => ?_, fun l hl h => ?_, fun l hl h => ?_, fun l hl h => ?_, fun l hl => ?_,
    fun l hl h => by rw [atKey_miss f h]; exact rs.bindings l hl, fun l _ h => by rw [atKey_miss f h],
    fun l _ h => by rw [atKey_miss f h], fun l _ h => by rw [atKey_miss f h]⟩
  · unfold Machine.atKey
    split
    · exact key l
    · rfl
  · unfold Machine.atKey
    split
    · exact put l
    · rfl
  · rw [atKey_hit f (hit l h)]
    exact (freed l hl (hit l h)).1
  · rw [atKey_hit f (hit l h)]
    exact (freed l hl (hit l h)).2.1
  · rw [atKey_hit f (hit l h)]
    exact (freed l hl (hit l h)).2.2.1
  · unfold Machine.atKey
    split
    · rename_i h
      exact (freed l hl h).2.2.2
    · exact rs.picked l hl

namespace TableForm

variable {s : State}

/-! ### Ports -/

theorem seatTote (h : TableForm s) {p : Nat} {q : Port} (hq : s.floor.port p = some q) (hs : q.state = .inbound) :
    TableForm (s.seatTote p) := by
  have carries : s.floor.Carries { s.floor.updPort p Port.seated with presentation := s.floor.presentation ++ [p] } :=
    .changePort h.floor.nums h.lines.emptied hq (by simp [hs]) Port.seated (fun _ => rfl) rfl rfl rfl rfl (by simp [Port.seated])
  refine allocationPass (h.carries (h.floor.seated hq hs) (ClaimsOk.keeps.floor _ ?_ h.claims) carries) p
  exact (FloorStep.updPort s.floor p Port.seated (fun _ => rfl) fun _ => .inr rfl).trans (.of_same rfl rfl rfl)

theorem afterVacate (h : TableForm s) : TableForm s.afterVacate := h.completionTest.route

theorem clearPort (h : TableForm s) {p : Nat} {q : Port} (hq : s.floor.port p = some q) (hs : q.state = .releasing) {x : Tote}
    (hx : q.tote = some x) : TableForm (s.clearPort p x) := by
  have empty := h.lines.emptied.leaving q (Floor.port_mem hq).1 (.inr (.inl hs))
  have released : ∀ y ∈ s.floor.releaseLane ++ [some x], ∀ z ∈ y, z.bound = [] := fun y hy z hz => by
    rcases List.mem_append.1 hy with hy | hy
    · exact h.lines.emptied.released y hy z hz
    · rw [List.mem_singleton.1 hy, ← hx] at hz
      exact empty z hz
  have moved := h.carries (h.floor.cleared hq hs x)
    (ClaimsOk.keeps.floor _ (FloorStep.toReleaseLane s.floor hq hx (fun q => { q.vacate with occupied := false }) (fun _ => rfl)
      fun _ => rfl) h.claims)
    (.giveUp h.floor.nums h.lines.emptied hq (by simp [hs]) empty (fun q => { q.vacate with occupied := false }) (fun _ => rfl) rfl rfl
      rfl released)
  exact afterVacate (s := State.write _ _) moved.beside

theorem recordSeat (h : TableForm s) (p : Nat) (b : Bool) : TableForm (s.recordSeat p b) :=
  h.carries (h.floor.recordSeat p b)
    (ClaimsOk.keeps.updPort p (fun q => { q with occupied := b }) (fun _ => rfl) (fun _ => .inr rfl) h.claims)
    (.recordSeat h.lines.emptied p b)

theorem seatReport (h : TableForm s) (p : Nat) (b : Bool) : TableForm (s.seatReport p b) := by
  unfold State.seatReport
  split
  · exact h
  · rename_i q hq
    split
    · exact h
    · split
      · rename_i inbound
        rw [Bool.and_eq_true, beq_iff_eq] at inbound
        exact h.seatTote hq inbound.1
      · split
        · rename_i releasing
          rw [Bool.and_eq_true, beq_iff_eq] at releasing
          split
          · rename_i x hx
            exact h.clearPort hq releasing.1 hx
          · exact h.recordSeat p b
        · split
          · exact (h.recordSeat p b).route
          · exact h.recordSeat p b

theorem clearKey (h : TableForm s) (p : Nat) : TableForm (s.clearKey p) := by
  unfold State.clearKey
  split
  · exact h
  · rename_i q hq
    split
    · rename_i faulted
      have hs : q.state = .faulted := by simpa using faulted
      have form : FloorForm (s.floor.updPort p Port.vacate) :=
        h.floor.changeIdle hq Port.vacate (fun _ => rfl) rfl (.inr (.inr hs)) (.inl rfl) (by simp [Port.vacate]) (by simp [Port.vacate])
          rfl rfl rfl
      have vacated : TableForm (s.updPort p Port.vacate) := h.carries form (ClaimsOk.keeps.vacate p h.claims)
        (.giveUp h.floor.nums h.lines.emptied hq (by simp [hs]) (h.lines.emptied.leaving q (Floor.port_mem hq).1 (.inr (.inr hs)))
          Port.vacate (fun _ => rfl) rfl rfl rfl h.lines.emptied.released)
      split
      · exact afterVacate (s := State.updPort (s.write _) p Port.vacate) vacated.beside
      · exact vacated.afterVacate
    · exact h

theorem phaseUnknown (h : TableForm s) (x : Tote) : TableForm (s.phaseUnknown x) := by
  unfold State.phaseUnknown
  split
  · split
    · exact h
    · exact h.beside
  · exact h

theorem queueRelease (h : TableForm s) (x : Tote) : TableForm (s.queueRelease x) := by
  unfold State.queueRelease
  split
  · exact h.queueFrame _
  · exact h

theorem afterMerge (h : TableForm s) {x : Option Tote} {rest : List (Option Tote)} (e : s.floor.releaseLane = x :: rest) :
    TableForm (State.afterMerge { s with floor := { s.floor with releaseLane := rest } }) := by
  have granted := (h.carries (h.floor.dropHead e) (ClaimsOk.keeps.floor _ (FloorStep.dropHead _ e) h.claims)
    (.dropHead h.lines.emptied e)).grantRoom
  unfold State.afterMerge
  dsimp only
  split
  · exact granted.completionTest
  · exact granted

theorem merge (h : TableForm s) : TableForm s.merge := by
  unfold State.merge
  split
  · exact h
  · rename_i head rest lane
    cases head with
    | none => exact h.afterMerge lane
    | some x => exact ((h.phaseUnknown x).queueRelease x).afterMerge (by simpa using lane)

/-! ### The end of a task (R135, R138) -/

/-- The task ends and its line, bound to nothing, leaves the list of its tote. -/
theorem endLine (h : TableForm s) {k : Task} (hk : s.panel.task = some k) {f : Line → Line}
    (frees : Frees (· = (k.order, k.lineNo)) s.lines (atKey k.order k.lineNo f)) :
    TableForm (((s.endTask k).updLine k.order k.lineNo f).unlist k.tote k.order k.lineNo) := by
  have id' : ∀ x : Tote, (if x.isId k.tote then
      { x with bound := x.bound.filter fun b => !(b.order == k.order && b.lineNo == k.lineNo) } else x).id = x.id := fun x => by
    split <;> rfl
  have sub : ∀ x : Tote, (if x.isId k.tote then
      { x with bound := x.bound.filter fun b => !(b.order == k.order && b.lineNo == k.lineNo) } else x).bound.Sublist x.bound := fun x => by
    split
    · exact List.filter_sublist
    · exact .refl _
  obtain ⟨l, -, hl, lit, -⟩ := h.lines.taskLine hk
  refine ⟨h.floor.mapTotes _, ClaimsOk.keeps.updTote (s := (s.endTask k).updLine k.order k.lineNo f) _ _ (fun _ => rfl)
    (ClaimsOk.keeps.lines (s := s.endTask k) _ ⟨h.claims.ports, h.claims.once, h.claims.places⟩), h.lines.records.frees frees,
    ?_, h.lines.emptied.mapTotes _ id' sub, TaskOk.ended (hk ▸ h.lines.task) frees rfl⟩
  refine h.freesTote (t := k.tote) id' (fun x hx => ?_) frees (fun m hm key => ?_) sub (fun x hx hxt b hb => ?_)
  · rw [if_neg (by simpa [Tote.isId] using hx)]
  · rw [h.lines.records.same hm hl (key.trans lit.key.symm)]
    exact lit.binding
  · rw [if_pos (by simpa [Tote.isId] using hxt)]
    simp [hb, Prod.ext_iff, or_iff_not_imp_left]

/-- A withdrawn line that is not cancel-pending is RESERVED again (R138 step 2). -/
theorem darkenLine (h : TableForm s) {k : Task} (hk : s.panel.task = some k) {l : Line} (hl : s.taskLine k = some l)
    (kept : l.cancelPending = false) : TableForm ((s.endTask k).updLine k.order k.lineNo Line.withdrawn) := by
  obtain ⟨m, hm, mem, lit, only⟩ := h.lines.taskLine hk
  cases hl.symm.trans hm
  have same : s.lines.map (atKey k.order k.lineNo Line.withdrawn) =
      s.lines.map (atKey k.order k.lineNo fun x => { x with state := .reserved }) := List.map_congr_left fun x hx => by
    by_cases key : x.hasKey k.order k.lineNo = true
    · rw [atKey_hit _ key, atKey_hit _ key, only x hx key, Line.withdrawn, kept]
      rfl
    · rw [atKey, atKey, if_neg key, if_neg key]
  refine ⟨h.floor, ClaimsOk.keeps.lines (s := s.endTask k) _ ⟨h.claims.ports, h.claims.once, h.claims.places⟩, ?_, ?_,
    h.lines.emptied, ⟨fun _ hn => (by cases hn), ?_⟩⟩
  · rw [State.updLine_lines]
    change RecordsOk (s.lines.map _)
    rw [same]
    refine h.lines.records.map _ (fun x => ?_) (fun x => ?_) (fun x hx => ?_) fun x hx => ?_
    · unfold atKey
      split <;> rfl
    · unfold atKey
      split <;> rfl
    · by_cases key : x.hasKey k.order k.lineNo = true
      · rw [atKey_hit _ key, only x hx key]
        exact Line.bindingOk_bound (r := .tote k.tote) (by simp [Binding.states]) lit.binding kept
      · rw [atKey, if_neg key]
        exact h.lines.records.bindings x hx
    · have picked := h.lines.records.picked x hx
      unfold atKey
      split <;> exact picked
  · rw [State.updLine_lines]
    change Listing (s.lines.map _) _
    rw [same]
    refine h.lines.listing.restate _ (fun x => ?_) (fun x => ?_) (fun x => ?_) fun x hx r hr listed => ?_
    · unfold atKey
      split <;> rfl
    · unfold atKey
      split <;> rfl
    · unfold atKey
      split <;> rfl
    · by_cases key : x.hasKey k.order k.lineNo = true
      · rw [atKey_hit _ key]
        rw [only x hx key] at hr
        cases hr.symm.trans lit.binding
        simp [Binding.states]
      · rw [atKey, if_neg key]
        exact listed
  · rw [State.updLine_lines]
    change ∀ x ∈ s.lines.map _, _
    rw [same]
    refine List.forall_mem_map.2 fun x hx active => ?_
    by_cases key : x.hasKey k.order k.lineNo = true
    · rw [atKey_hit _ key] at active
      cases active
    · rw [atKey, if_neg key] at active
      obtain ⟨j, hj, own⟩ := h.lines.task.active x hx active
      cases hk.symm.trans hj
      exact absurd ((x.hasKey_iff _ _).2 own) key

theorem withdrawTask (h : TableForm s) {k : Task} (hk : s.panel.task = some k) : TableForm (s.withdrawTask k) := by
  refine taskChoice (releaseTest ?_ _)
  obtain ⟨l, found, -, -, only⟩ := h.lines.taskLine hk
  have found' : (s.endTask k).taskLine k = some l := found
  unfold State.withdrawLine
  dsimp only
  rw [found', Option.any_some]
  split
  · rename_i pending
    refine orderCheck (h.endLine hk (.atKey h.lines.records _ _ _ (fun x => ?_) (fun x => ?_) fun x hx key => ?_)) _
    · unfold Line.withdrawn
      split <;> rfl
    · unfold Line.withdrawn
      split <;> rfl
    · have picked := h.lines.records.picked x hx
      rw [only x hx key] at picked ⊢
      rw [Line.withdrawn, if_pos pending]
      exact ⟨.inr (.inr rfl), rfl, rfl, picked⟩
  · rename_i kept
    exact h.darkenLine hk found (by simpa using kept)

theorem withdrawAt (h : TableForm s) (p : Nat) : TableForm (s.withdrawAt p) := by
  unfold State.withdrawAt
  split
  · rename_i k hk
    split
    · exact h.withdrawTask hk
    · exact h
  · exact h

theorem putReport (h : TableForm s) (p : Nat) (b : Bool) : TableForm (s.putReport p b) := by
  unfold State.putReport
  split
  · exact h
  · split
    · exact h
    · dsimp only
      split
      · exact withdrawAt (s := State.updPut (s.updPut p _) p _) h.beside p
      · exact taskChoice (s := State.updPut (s.updPut p _) p _) h.beside
      · exact h.beside
      · split
        · exact h.beside
        · exact h.beside
      all_goals exact h.beside

/-! ### Confirms -/

theorem shortOthers_mem {k : Task} {b : BoundLine} (hb : b ∈ s.shortOthers k) :
    s.boundIn .reserved b = true ∧ ∃ y ∈ s.floor.allTotes, y.id = some k.tote ∧ b ∈ y.bound := by
  unfold State.shortOthers at hb
  split at hb
  · obtain ⟨mem, here⟩ := List.mem_filter.1 hb
    rw [Bool.and_eq_true] at here
    refine ⟨here.2, ?_⟩
    cases found : s.floor.allTotes.find? (·.isId k.tote) with
    | none =>
        rw [found] at mem
        cases mem
    | some y =>
        rw [found] at mem
        exact ⟨y, List.mem_of_find?_eq_some found, by simpa [Tote.isId] using List.find?_some found, mem⟩
  · cases hb

theorem returnOthers (h : TableForm s) {k : Task} {x : Tote} (hx : x ∈ s.floor.allTotes) (ht : x.id = some k.tote) :
    TableForm (s.returnOthers k (s.shortOthers k)) :=
  h.returnPart (back := s.shortOthers k) ⟨x, hx, ht, rfl⟩
    (fun b hb => by
      obtain ⟨-, y, hy, hyt, mem⟩ := shortOthers_mem hb
      rwa [Floor.tote_unique h.ids_nodup hx hy ht hyt])
    (fun b hb => (shortOthers_mem hb).1)
    (fun y => { y with bound := y.bound.filter fun b => !(s.shortOthers k).contains b }) (fun _ => rfl) fun _ => rfl

/-- Step 2 of a confirm touches neither IDs nor lists. -/
theorem confirmComp (h : TableForm s) (k : Task) : TableForm (s.confirmComp k) := by
  refine h.carries (h.floor.mapTotes _) (ClaimsOk.keeps.updTote k.tote _ (fun _ => rfl) h.claims)
    (.mapTotes h.lines.emptied _ (fun x => ?_) fun x => ?_)
  all_goals split <;> rfl

theorem confirmLine (h : TableForm s) {k : Task} (hk : s.panel.task = some k) : TableForm ((s.endTask k).confirmLine k) := by
  obtain ⟨l, -, -, lit, only⟩ := h.lines.taskLine hk
  obtain ⟨display, -, -⟩ := h.lines.task.lit k hk
  refine h.endLine hk (.atKey h.lines.records _ _ (Line.confirmed k) (fun _ => rfl) (fun _ => rfl) fun x hx key => ⟨?_, rfl, rfl, ?_⟩)
  · unfold Line.confirmed Line.afterConfirm LineState.loose
    dsimp only
    split
    · simp
    · split <;> simp
  · have picked := h.lines.records.picked x hx
    have units := lit.units
    rw [only x hx key] at picked ⊢
    change l.picked + k.display ≤ l.requested
    omega

theorem applyConfirm (h : TableForm s) {k : Task} (hk : s.panel.task = some k) : TableForm (s.applyConfirm k) := by
  have confirmed : TableForm (((s.endTask k).confirmComp k).confirmLine k) := (h.confirmComp k).confirmLine hk
  obtain ⟨-, ⟨x, hx, ht⟩, -⟩ := h.lines.task.lit k hk
  obtain ⟨y, hy, hyt⟩ : ∃ y ∈ (((s.endTask k).confirmComp k).confirmLine k).floor.allTotes, y.id = some k.tote := by
    change ∃ y ∈ ((s.floor.mapTotes _).mapTotes _).allTotes, _
    rw [Floor.mapTotes_allTotes, Floor.mapTotes_allTotes]
    refine ⟨_, List.mem_map_of_mem (List.mem_map_of_mem (Floor.presentedTote_mem hx)), ?_⟩
    simp [Tote.isId, ht]
  refine taskChoice (releaseTest (passesIf _ (orderCheck ?_ _)) _)
  exact (confirmed.returnOthers hy hyt).beside

theorem confirmKey (h : TableForm s) (p : Nat) : TableForm (s.confirmKey p) := by
  unfold State.confirmKey
  split
  · rename_i k hk
    split
    · exact h.applyConfirm hk
    · exact h.beside
  · exact h.beside

/-- The short key lowers the display by 1 (R129). -/
theorem shortKey (h : TableForm s) : TableForm s.shortKey := by
  unfold State.shortKey
  split
  · exact h
  · rename_i k hk
    obtain ⟨display, presented, l, hl, lit⟩ := h.lines.task.lit k hk
    refine ⟨h.floor, ⟨h.claims.ports, h.claims.once, h.claims.places⟩, h.lines.records, h.lines.listing, h.lines.emptied, ⟨?_, ?_⟩⟩
    · rintro j ⟨⟩
      exact ⟨(Nat.sub_le _ _).trans display, presented, l, hl, lit.key, lit.state, lit.binding, lit.units⟩
    · intro m hm active
      obtain ⟨j, hj, key⟩ := h.lines.task.active m hm active
      cases hk.symm.trans hj
      exact ⟨_, rfl, key⟩

/-! ### Clock -/

theorem tickWork (h : TableForm s) : TableForm s.tickWork := by
  have counted : TableForm { s with floor := s.floor.mapTotes Tote.countDown } := by
    refine h.carries (h.floor.mapTotes _) (ClaimsOk.keeps.floor _ (FloorStep.mapTotes _ _ KeepsAll.countDown_id) h.claims)
      (.mapTotes h.lines.emptied _ KeepsAll.countDown_id fun x => ?_)
    unfold Tote.countDown
    split <;> rfl
  exact spendAll (s := { s with floor := s.floor.mapTotes Tote.countDown, panel := s.panel.tick }) counted.beside

theorem dueWork (h : TableForm s) : TableForm s.dueWork := by
  unfold State.dueWork
  refine foldl _ (fun p h => h.seatTimeout p) _ (foldl _ (fun t h => h.expireRound t) _ ?_)
  split
  · exact h.tickWork
  · exact h

theorem whenLive {f : State → State} (hf : ∀ {s : State}, TableForm s → TableForm (f s)) (h : TableForm s) :
    TableForm (Machine.whenLive f s) := by
  unfold Machine.whenLive
  split
  · exact hf h
  · exact h

theorem idle (h : TableForm s) : TableForm s.idle := by
  unfold State.idle
  split
  · exact h
  · exact whenLive (s := { s with ms := s.ms + 1 }) dueWork h.beside

end TableForm

end Sys2Proof.Machine
end

section
/-! SUPPORT. Grants, cancels, mode actions, the bus and resets keep floor and Line Table in form (R28 to R35, R148 to R157, R177, R188). -/

namespace Sys2Proof.Machine

/-! ### An accepted grant (R29, R31) -/

theorem repeatedLine_eq_false_iff (xs : List GrantLine) : repeatedLine xs = false ↔ (xs.map (·.lineNo)).Nodup := by
  induction xs with
  | nil => simp [repeatedLine]
  | cons x xs ih =>
      rw [repeatedLine, Bool.or_eq_false_iff, ih, List.map_cons, List.nodup_cons]
      refine and_congr_left fun _ => ?_
      simp

/-- What R29 has tested of a grant that is not refused. -/
structure State.Admits (s : State) (g : GrantFrame) : Prop where
  wellFormed : grantMalformed g = false
  once : (g.lines.map (·.lineNo)).Nodup
  new : ∀ x ∈ g.lines, ∀ l ∈ s.lines, l.key ≠ (g.order, x.lineNo)
  samePut : ∀ l ∈ s.lines, l.order = g.order → l.put = g.put
  orderRoom : (s.orderLines g.order).length + g.lines.length ≤ Config.orderLineLimit
  tableRoom : s.lines.length + g.lines.length ≤ Config.lineCapacity

theorem State.admits_of_accepted {s : State} {g : GrantFrame} (h : s.grantRefusal g = none) : s.Admits g := by
  unfold State.grantRefusal at h
  split at h
  · cases h
  · rename_i wellFormed
    split_ifs at h with _ busy _ duplicate long full
    have notBusy := Bool.eq_false_iff.2 busy
    have notDuplicate := Bool.eq_false_iff.2 duplicate
    rw [State.putBusy, Bool.or_eq_false_iff] at notBusy
    rw [State.duplicateLine, Bool.or_eq_false_iff, repeatedLine_eq_false_iff] at notDuplicate
    obtain ⟨once, new⟩ := notDuplicate
    refine ⟨Bool.eq_false_iff.2 wellFormed, once, fun x hx l hl key => ?_, fun l hl ho => ?_, Nat.le_of_not_lt long, Nat.le_of_not_lt full⟩
    · refine Bool.eq_false_iff.1 new (List.any_eq_true.2 ⟨x, hx, List.any_eq_true.2 ⟨l, hl, (l.hasKey_iff _ _).2 key⟩⟩)
    · by_contra hne
      exact Bool.eq_false_iff.1 notBusy.2
        (List.any_eq_true.2 ⟨l, List.mem_filter.2 ⟨hl, by simpa using ho⟩, by simpa using hne⟩)

section
variable {s : State} {g : GrantFrame}

theorem mem_granted {l : Line} (h : l ∈ g.lines.mapIdx (s.grantedLine g)) : ∃ i, ∃ x ∈ g.lines, l = s.grantedLine g i x := by
  obtain ⟨i, hi, rfl⟩ := List.mem_mapIdx.1 h
  exact ⟨i, _, List.getElem_mem hi, rfl⟩

theorem granted_keys : (g.lines.mapIdx (s.grantedLine g)).map Line.key = g.lines.map fun x => (g.order, x.lineNo) :=
  List.ext_getElem (by simp) fun i _ _ => by simp [State.grantedLine, Line.key]

/-- The records of an accepted grant join the table (R31 step 1). -/
theorem RecordsOk.grant (h : RecordsOk s.lines) (a : s.Admits g) : RecordsOk (s.lines ++ g.lines.mapIdx (s.grantedLine g)) := by
  refine ⟨by simpa using a.tableRoom, ?_, fun o => ?_, fun l hl m hm e => ?_, fun l hl => ?_, fun l hl => ?_⟩
  · rw [List.map_append, granted_keys]
    refine List.nodup_append.2 ⟨h.keys, ?_, fun k hk j hj e => ?_⟩
    · have lift : (fun x : GrantLine => (g.order, x.lineNo)) = Prod.mk g.order ∘ (·.lineNo) := rfl
      rw [lift, ← List.map_map]
      exact a.once.map fun _ _ => (congrArg Prod.snd ·)
    · obtain ⟨l, hl, rfl⟩ := List.mem_map.1 hk
      obtain ⟨x, hx, rfl⟩ := List.mem_map.1 hj
      exact a.new x hx l hl e
  · rw [List.filter_append, List.length_append]
    by_cases e : o = g.order
    · subst e
      have few := (List.filter_sublist (p := fun l : Line => l.order == g.order) (l := g.lines.mapIdx (s.grantedLine g))).length_le
      have room := a.orderRoom
      rw [List.length_mapIdx] at few
      rw [State.orderLines] at room
      omega
    · have none : (g.lines.mapIdx (s.grantedLine g)).filter (fun l => l.order == o) = [] :=
        List.filter_eq_nil_iff.2 fun l hl hlo => by
          obtain ⟨i, x, -, rfl⟩ := mem_granted hl
          exact e (by simpa [State.grantedLine] using (beq_iff_eq.1 hlo).symm)
      rw [none]
      exact h.order o
  · have put : ∀ l ∈ s.lines ++ g.lines.mapIdx (s.grantedLine g), l.order = g.order → l.put = g.put := fun l hl ho => by
      rcases List.mem_append.1 hl with hl | hl
      · exact a.samePut l hl ho
      · obtain ⟨i, x, -, rfl⟩ := mem_granted hl
        rfl
    by_cases ho : l.order = g.order
    · rw [put l hl ho, put m hm (e ▸ ho)]
    · have old : ∀ l ∈ s.lines ++ g.lines.mapIdx (s.grantedLine g), l.order ≠ g.order → l ∈ s.lines := fun l hl ho =>
        (List.mem_append.1 hl).resolve_right fun hl => by
          obtain ⟨i, x, -, rfl⟩ := mem_granted hl
          exact ho rfl
      exact h.put l (old l hl ho) m (old m hm (e ▸ ho)) e
  · rcases List.mem_append.1 hl with hl | hl
    · exact h.bindings l hl
    · obtain ⟨i, x, -, rfl⟩ := mem_granted hl
      rfl
  · rcases List.mem_append.1 hl with hl | hl
    · exact h.picked l hl
    · obtain ⟨i, x, -, rfl⟩ := mem_granted hl
      exact Nat.zero_le _

end

/-! ### A cancelled order (R33) -/

/-- The lines that a CANCEL of `o` ends: those of the order that are not ACTIVE. -/
def Cancelled (o : OrderId) (ls : List Line) (k : OrderId × Byte) : Prop := k.1 = o ∧ ∀ l ∈ ls, l.key = k → l.state ≠ .active

theorem Line.cancel_key (o : OrderId) (l : Line) : (l.cancel o).key = l.key := by
  unfold Line.cancel
  split
  · split
    · rfl
    · split <;> rfl
  · rfl

theorem Line.cancel_put (o : OrderId) (l : Line) : (l.cancel o).put = l.put := by
  unfold Line.cancel
  split
  · split
    · rfl
    · split <;> rfl
  · rfl

theorem Line.cancel_other {o : OrderId} {l : Line} (h : l.order ≠ o) : l.cancel o = l := if_neg (by simpa using h)

theorem Line.cancel_active {o : OrderId} {l : Line} (h : l.order = o) (ha : l.state = .active) :
    l.cancel o = { l with cancelPending := true } := by
  simp [Line.cancel, h, ha, LineState.cancellable]

theorem Line.cancel_cancellable {o : OrderId} {l : Line} (h : l.order = o) (hc : l.state.cancellable = true) :
    l.cancel o = { l with state := .cancelled, binding := none } := by
  simp [Line.cancel, h, hc]

/-- A line that a CANCEL finds DONE or CANCELLED stays as it is. -/
theorem Line.cancel_final {o : OrderId} {l : Line} (hf : l.state.final = true) : l.cancel o = l := by
  cases hs : l.state <;> simp_all [Line.cancel, LineState.cancellable, LineState.final]

theorem LineState.cases (st : LineState) : st.cancellable = true ∨ st = .active ∨ st.final = true := by
  cases st <;> simp [LineState.cancellable, LineState.final]

theorem Frees.cancel {ls : List Line} (rs : RecordsOk ls) (o : OrderId) : Frees (Cancelled o ls) ls (Line.cancel o) := by
  have ended : ∀ l ∈ ls, Cancelled o ls l.key →
      (l.cancel o).state.loose ∧ (l.cancel o).binding = none ∧ (l.cancel o).cancelPending = false := fun l hl h => by
    obtain ⟨ho, idle⟩ := h
    have bindings := rs.bindings l hl
    have quiet := Line.not_pending bindings (idle l hl rfl)
    rcases l.state.cases with hc | ha | hf
    · rw [Line.cancel_cancellable ho hc]
      exact ⟨.inr (.inr rfl), rfl, quiet⟩
    · exact absurd ha (idle l hl rfl)
    · rw [Line.cancel_final hf]
      have loose := TableForm.final_loose hf
      exact ⟨loose, Line.unbound_of_loose bindings loose, quiet⟩
  have stays : ∀ l ∈ ls, ¬Cancelled o ls l.key → l.cancel o = l ∨
      l.state = .active ∧ l.cancel o = { l with cancelPending := true } := fun l hl h => by
    by_cases ho : l.order = o
    · by_cases ha : l.state = .active
      · exact .inr ⟨ha, Line.cancel_active ho ha⟩
      · refine absurd ⟨ho, fun m hm key => ?_⟩ h
        rwa [rs.same hm hl key]
    · exact .inl (Line.cancel_other ho)
  refine ⟨Line.cancel_key o, Line.cancel_put o, fun l hl h => (ended l hl h).1, fun l hl h => (ended l hl h).2.1,
    fun l hl h => (ended l hl h).2.2, fun l hl => ?_, fun l hl h => ?_, fun l hl h => ?_, fun l hl h => ?_, fun l hl h => ?_⟩
  · have picked := rs.picked l hl
    unfold Line.cancel
    split
    · split
      · exact picked
      · split <;> exact picked
    · exact picked
  · have bindings := rs.bindings l hl
    rcases stays l hl h with e | ⟨active, e⟩
    · rwa [e]
    · obtain ⟨t, bound⟩ := Line.active_binding bindings active
      rw [e]
      exact Line.bindingOk_active (t := t) active bound
  all_goals
    rcases stays l hl h with e | ⟨-, e⟩
    · rw [e]
    · rw [e]

/-- A CANCEL takes a listed entry off its list exactly when its line is one that it ends. -/
theorem LinesForm.cancels_iff {s : State} (h : LinesForm s) {r : Binding} {bs : List BoundLine} (hr : Holder s.contests s.floor r bs)
    {b : BoundLine} (hb : b ∈ bs) (o : OrderId) : s.cancels o b = true ↔ Cancelled o s.lines b.key := by
  obtain ⟨l, hl, holds, found⟩ := h.entry hr hb
  have key := (l.isBound_iff b).1 holds.key
  rw [State.cancels, State.boundIn_of_lineOf found, Bool.and_eq_true, Bool.not_eq_true', beq_iff_eq, beq_eq_false_iff_ne]
  refine and_congr_right fun _ => ⟨fun idle m hm e => ?_, fun idle => idle l hl key⟩
  rwa [h.records.same hm hl (e.trans key.symm)]

namespace TableForm

variable {s : State}

/-! ### Orders -/

theorem enterGrant (h : TableForm s) {g : GrantFrame} (a : s.Admits g) : TableForm (s.enterGrant g) := by
  refine ⟨h.floor, ⟨h.claims.ports, h.claims.once, h.claims.places⟩, h.lines.records.grant a,
    ⟨h.lines.listing.once, fun r bs hr b hb => ?_, fun l hl r hr => ?_⟩, h.lines.emptied, ⟨fun k hk => ?_, fun l hl active => ?_⟩⟩
  · obtain ⟨l, hl, holds⟩ := h.lines.listing.holds r bs hr b hb
    exact ⟨l, List.mem_append_left _ hl, holds⟩
  · rcases List.mem_append.1 hl with hl | hl
    · exact h.lines.listing.listed l hl r hr
    · obtain ⟨i, x, -, rfl⟩ := mem_granted hl
      cases hr
  · obtain ⟨display, presented, l, hl, lit⟩ := h.lines.task.lit k hk
    exact ⟨display, presented, l, List.mem_append_left _ hl, lit⟩
  · rcases List.mem_append.1 hl with hl | hl
    · exact h.lines.task.active l hl active
    · obtain ⟨i, x, -, rfl⟩ := mem_granted hl
      cases active

theorem takeGrant (h : TableForm s) (g : GrantFrame) : TableForm (s.takeGrant g) := by
  unfold State.takeGrant
  split
  · split
    · exact h.queueFrame _
    · rename_i accepted
      exact ((h.enterGrant (State.admits_of_accepted accepted)).queueFrame _).allPasses
  · exact h

theorem cancelLines (h : TableForm s) (o : OrderId) : TableForm (s.cancelLines o) := by
  have frees := Frees.cancel h.lines.records o
  have part : ∀ r bs, Holder s.contests s.floor r bs → ∀ b ∈ bs, b ∈ bs.filter (fun b => !s.cancels o b) ↔
      ¬Cancelled o s.lines b.key := fun r bs hr b hb => by
    rw [List.mem_filter, Bool.not_eq_true', Bool.eq_false_iff, ne_eq, h.lines.cancels_iff hr hb o]
    exact and_iff_right hb
  have holder : ∀ r bs', Holder (s.cancelLines o).contests (s.cancelLines o).floor r bs' ↔
      ∃ bs, Holder s.contests s.floor r bs ∧ bs' = bs.filter fun b => !s.cancels o b := fun r bs' => by
    cases r with
    | contest t =>
        simp only [Holder, State.cancelLines, List.mem_map, exists_exists_and_eq_and]
        constructor
        · rintro ⟨c, hc, ht, rfl⟩
          exact ⟨_, ⟨c, hc, ht, rfl⟩, rfl⟩
        · rintro ⟨_, ⟨c, hc, ht, rfl⟩, rfl⟩
          exact ⟨c, hc, ht, rfl⟩
    | tote t =>
        simp only [Holder, State.cancelLines, Floor.mapTotes_allTotes, List.mem_map, exists_exists_and_eq_and]
        constructor
        · rintro ⟨x, hx, ht, rfl⟩
          exact ⟨_, ⟨x, hx, ht, rfl⟩, rfl⟩
        · rintro ⟨_, ⟨x, hx, ht, rfl⟩, rfl⟩
          exact ⟨x, hx, ht, rfl⟩
  have claims : ClaimsOk (s.cancelLines o) := by
    have totes : (s.contests.map fun c => { c with bound := c.bound.filter fun b => !s.cancels o b }).map (·.tote) =
        s.contests.map (·.tote) := by
      rw [List.map_map]
      rfl
    exact ClaimsOk.keeps.floor (s := { s with
        lines := s.lines.map (Line.cancel o)
        contests := s.contests.map fun c => { c with bound := c.bound.filter fun b => !s.cancels o b } })
      _ (FloorStep.mapTotes s.floor (fun x => { x with bound := x.bound.filter fun b => !s.cancels o b }) fun _ => rfl)
      (ClaimsOk.keeps.contests (s := { s with lines := s.lines.map (Line.cancel o) }) _ (totes ▸ .refl _)
        (ClaimsOk.keeps.lines _ h.claims))
  refine ⟨h.floor.mapTotes _, claims, h.lines.records.frees frees,
    h.lines.listing.frees frees (fun r bs' hr => .inr ?_) (fun r bs hr b hb free => ?_),
    h.lines.emptied.mapTotes _ (fun _ => rfl) fun _ => List.filter_sublist,
    h.lines.task.frees frees (fun l hl ended => ended.2 l hl rfl) fun _ _ hk => hk.mapTotes _ fun _ => rfl⟩
  · obtain ⟨bs, held, rfl⟩ := (holder r bs').1 hr
    exact ⟨bs, held, List.filter_sublist, fun b hb => (part r bs held b (List.mem_of_mem_filter hb)).1 hb⟩
  · exact ⟨_, (holder r _).2 ⟨bs, hr, rfl⟩, (part r bs hr b hb).2 free⟩

theorem giveBackEmpty (h : TableForm s) (t : ToteId) : TableForm (s.giveBackEmpty t) := by
  unfold State.giveBackEmpty
  split
  · exact h
  · rename_i c hc
    split
    · exact h.endFound hc _ _
    · exact h

theorem cancelOrder (h : TableForm s) (n : Nat) (o : OrderId) : TableForm (s.cancelOrder n o) :=
  queueFrame (orderCheck (foldl _ (fun p h => h.releaseTest p) _ (foldl _ (fun t h => h.giveBackEmpty t) _ (h.cancelLines o))) o) _

theorem takeCancel (h : TableForm s) (d : Dest) (o : OrderId) : TableForm (s.takeCancel d o) := by
  unfold State.takeCancel
  split
  · split
    · exact h.queueFrame _
    · split
      · exact h.queueFrame _
      · exact h.cancelOrder _ _
  · exact h

/-! ### Journal and status -/

theorem dropEntries (h : TableForm s) (n : Nat) : TableForm (s.dropEntries n) := by
  unfold State.dropEntries
  dsimp only
  split
  · exact taskChoice (s := { s with journal := s.journal.drop n }) h.beside
  · exact h.beside

theorem takeFetch (h : TableForm s) (d : Dest) (k : Byte) : TableForm (s.takeFetch d k) := by
  unfold State.takeFetch
  split
  · split
    · exact h.queueFrame _
    · exact (h.dropEntries _).queueFrame _
  · exact h

theorem takeMark (h : TableForm s) (d : Dest) (n : Nat) (ws : List Word) : TableForm (s.takeMark d n ws) := by
  unfold State.takeMark
  split
  · split
    · exact h.queueFrame _
    · unfold State.markEntry
      split
      · exact h.queueFrame _
      · exact queueFrame (s := s.write _) h.beside _
  · exact h

theorem takeClearFaults (h : TableForm s) (d : Dest) (m : BitVec 16) : TableForm (s.takeClearFaults d m) := by
  unfold State.takeClearFaults
  split
  · exact queueFrame (s := { s with faults := s.faults.clear m }) h.beside _
  · exact h

theorem replyIf (h : TableForm s) (d : Dest) (n : Nat) (r : Reply) : TableForm (if s.addressed d then s.reply n r else s) := by
  split
  · exact h.queueFrame _
  · exact h

/-! ### Modes -/

theorem takeOpen (h : TableForm s) (d : Dest) : TableForm (s.takeOpen d) := by
  unfold State.takeOpen
  split
  · refine queueFrame ?_ _
    unfold State.openBench
    split
    · exact h
    · exact taskChoice (s := State.write { s with mode := .opened, requester := none } _) h.beside
  · exact h

theorem withdrawAllQueued (h : TableForm s) : TableForm s.withdrawAllQueued := by
  refine foldl _ (fun {s} t h => ?_) _ h
  unfold State.withdrawQueued
  split
  · exact h
  · rename_i c hc
    split
    · exact h.endFound hc _ _
    · exact h

theorem relinquishAll (h : TableForm s) : TableForm s.relinquishAll := by
  refine foldl _ (fun {s} t h => ?_) _ h
  unfold State.relinquish
  split
  · exact h
  · rename_i c hc
    split
    · exact h.endFound hc _ _
    · exact h

theorem endClose (h : TableForm s) (n : Nat) (a : ModeAction) : TableForm (s.endClose n a) :=
  completionTest (s := { s.modeReply n a with closeEntry := false }) (h.queueFrame _).beside

theorem enterSoft (h : TableForm s) (n : Nat) : TableForm (s.enterSoft n) :=
  (withdrawAllQueued (s := s.beginClose .closingSoft n) h.beside).endClose _ _

theorem enterHard (h : TableForm s) (n : Nat) : TableForm (s.enterHard n) :=
  (foldl _ (fun p h => h.releaseTest p) _ (withdrawAllQueued (s := s.beginClose .closingHard n) h.beside).relinquishAll).endClose _ _

theorem replaceRequester (h : TableForm s) (n : Nat) (a : ModeAction) : TableForm (s.replaceRequester n a) :=
  queueFrame (s := { s with requester := some n }) h.beside _

theorem answerClosed (h : TableForm s) (n : Nat) (a : ModeAction) : TableForm (s.answerClosed n a) :=
  (h.queueFrame _).queueFrame _

theorem takeCloseSoft (h : TableForm s) (d : Dest) : TableForm (s.takeCloseSoft d) := by
  unfold State.takeCloseSoft
  split
  · split
    · exact h.enterSoft _
    · exact h.replaceRequester _ _
    · exact h.replaceRequester _ _
    · exact h.answerClosed _ _
  · exact h

theorem takeCloseHard (h : TableForm s) (d : Dest) : TableForm (s.takeCloseHard d) := by
  unfold State.takeCloseHard
  split
  · split
    · exact h.enterHard _
    · exact h.enterHard _
    · exact h.replaceRequester _ _
    · exact h.answerClosed _ _
  · exact h

/-! ### Bus -/

theorem deliver (h : TableForm s) (bs : List Byte) (r : Received) : TableForm (s.deliver bs r) := by
  cases r with
  | badCheck => exact h.beside
  | badForm => exact h.beside
  | nothing => exact h
  | offer o => exact h.takeOffer o
  | bid a b c t => exact h.takeBid _ t
  | take a b c t l => exact h.takeTake _ t
  | landed a t => exact h.takeLanded a t
  | exit a t => exact h.takeExit t
  | grant g => exact h.takeGrant g
  | cancel d o => exact h.takeCancel d o
  | fetch d k => exact h.takeFetch d k
  | modeAction a d =>
      cases a with
      | opened => exact h.takeOpen d
      | closeSoft => exact h.takeCloseSoft d
      | closeHard => exact h.takeCloseHard d
  | status d => exact h.replyIf d _ _
  | clearFaults d m => exact h.takeClearFaults d m
  | mark d n ws => exact h.takeMark d n ws
  | malformedControl d a => exact h.replyIf d _ _

theorem startHead (h : TableForm s) : TableForm s.startHead := by
  unfold State.startHead
  split
  · exact h
  · split
    · exact h
    · exact h.beside

theorem carriedAs (h : TableForm s) (e : TxEntry) {f : State → State} (hf : ∀ {s : State}, TableForm s → TableForm (f s)) :
    TableForm (s.carriedAs e f) := by
  have carried : TableForm (s.takeCarriage e) := h.beside
  unfold State.carriedAs
  refine foldl _ (fun t h => h.requeueTake t) _ ?_
  split
  · exact carried
  · exact hf carried

theorem bidCarried (h : TableForm s) : TableForm s.bidCarried := by
  unfold State.bidCarried
  split
  · exact h
  · split
    · exact h.carriedAs _ fun h => h.ownBidCarried _
    · exact h

theorem takeCarried (h : TableForm s) : TableForm s.takeCarried := by
  unfold State.takeCarried
  split
  · exact h
  · split
    · exact h.carriedAs _ fun h => h.ownTakeCarried _
    · exact h

theorem otherCarried (h : TableForm s) : TableForm s.otherCarried := by
  unfold State.otherCarried
  split
  · exact h
  · split
    · exact h
    · exact h
    · exact h.carriedAs _ id

/-! ### Resets (R188) -/

/-- No record, no claim, and no tote with an ID: the tables after a reset. -/
theorem cleared (floor : FloorForm s.floor) (claims : ClaimsOk s) (lines : s.lines = []) (contests : s.contests = [])
    (task : s.panel.task = none) (empty : ∀ x ∈ s.floor.allTotes, x.bound = []) : TableForm s := by
  have held : ∀ q ∈ s.floor.ports, ∀ x ∈ q.tote, x.bound = [] := fun q hq x hx =>
    empty x (Floor.mem_allTotes.2 (.inr (.inl ⟨q, hq, hx⟩)))
  have released : ∀ y ∈ s.floor.releaseLane, ∀ x ∈ y, x.bound = [] := fun y hy x hx =>
    empty x (Floor.mem_allTotes.2 (.inr (.inr (hx ▸ hy))))
  have none : ∀ r bs, Holder s.contests s.floor r bs → bs = [] := fun r bs hr => by
    cases r with
    | contest t =>
        obtain ⟨c, hc, -⟩ := hr
        rw [contests] at hc
        cases hc
    | tote t =>
        obtain ⟨x, hx, -, rfl⟩ := hr
        exact empty x hx
  refine ⟨floor, claims, ?_, ⟨fun r bs hr => ?_, fun r bs hr b hb => ?_, ?_⟩, ⟨fun x hx _ => empty x hx, fun q hq _ => held q hq, released⟩,
    ⟨fun k hk => ?_, ?_⟩⟩
  · rw [lines]
    exact ⟨Nat.zero_le _, .nil, fun _ => Nat.zero_le _, nofun, nofun, nofun⟩
  · rw [none r bs hr]
    exact .nil
  · rw [none r bs hr] at hb
    cases hb
  · rw [lines]
    exact nofun
  · rw [task] at hk
    cases hk
  · rw [lines]
    exact nofun

theorem atReset_empty (i : Image) (x : Sensors) : ∀ y ∈ (Floor.atReset i x).allTotes, y.bound = [] := fun y hy => by
  rcases Floor.mem_allTotes.1 hy with hy | ⟨q, hq, hy⟩ | hy
  · rw [List.eq_of_mem_replicate hy]
    rfl
  · rw [mem_resetPorts hq] at hy
    cases ho : q.occupied <;> rw [ho] at hy <;> cases hy
    rfl
  · cases List.eq_of_mem_replicate hy

theorem takeReset (s : State) (k : ResetKind) (x : Sensors) : TableForm (s.takeReset k x) := by
  unfold State.takeReset
  split
  · exact cleared .vacant_zero ⟨List.nodup_nil, List.nodup_nil, Nat.zero_le _⟩ rfl rfl rfl nofun
  · rename_i i hi
    obtain ⟨-, hd⟩ := (buildImage_eq_some_iff _ _ _).1 hi
    have places : i.places = i.ports + i.lanePlaces := by
      subst hd
      rfl
    refine (route (cleared (.atReset i x) ⟨(FloorForm.atReset i x).nums, ?_, ?_⟩ rfl rfl rfl (atReset_empty i x))).grantRoom
    · change ([] ++ (Floor.atReset i x).ids).Nodup
      rw [Floor.atReset_ids]
      exact List.nodup_nil
    · change (Floor.atReset i x).heldCount + 0 ≤ i.places
      exact places ▸ Floor.atReset_heldCount_le i x

/-! ### Every command -/

theorem exec (h : TableForm s) (c : Instr) {t : State} (he : Machine.exec c s = .next t) : TableForm t := by
  have key : ∀ {f : State → State}, (∀ {s : State}, TableForm s → TableForm (f s)) → Machine.taken f s = .next t →
      TableForm t := fun hf he => by
    cases he
    exact whenLive hf h
  cases c with
  | coldReset x =>
      cases he
      split
      · exact h.beside
      · exact .takeReset _ _ _
  | warmReset x =>
      cases he
      split
      · exact .takeReset _ _ _
      · exact h.beside
  | supplyFall =>
      cases he
      exact h.beside
  | resetAssertion =>
      cases he
      exact h.beside
  | encoderPulse => exact key encoderPulse he
  | advance => exact key fullCount he
  | homeMark => exact key homeMark he
  | readerReport r => exact key (fun h => h.readerReport r) he
  | divert => exact key divertHead he
  | divertMiss => exact key missHead he
  | lapseWindowClose t => exact key (fun h => h.lapseIfDue t) he
  | laneEntry => exact key laneEntry he
  | seat p => exact key (fun h => h.seatReport p _) he
  | seatSensorReport p b => exact key (fun h => h.seatReport p b) he
  | seatTimeout p => exact key (fun h => h.seatTimeout p) he
  | clearKey p => exact key (fun h => h.clearKey p) he
  | portClear p => exact key (fun h => h.seatReport p _) he
  | merge => exact key merge he
  | putSensorReport p b => exact key (fun h => h.putReport p b) he
  | confirmKey p => exact key (fun h => h.confirmKey p) he
  | shortKey => exact key shortKey he
  | secondTick =>
      cases he
      split
      · exact h
      · exact whenLive (s := s.nextSecond) tickWork h.beside
  | exposureSpent t => exact key (fun h => h.spendIfDue t) he
  | putFlashEnd p => exact key (f := fun x => { x with panel := x.panel.updPutLight p PutLight.settle }) (fun h => h.beside) he
  | roundClose t => exact key (fun h => h.expireRound t) he
  | offer o => exact key (fun {u} h => takeOffer (s := u.clearReceived) h.beside o) he
  | bid a b c t => exact key (fun {u} h => takeBid (s := u.clearReceived) h.beside _ t) he
  | take a b c t l => exact key (fun {u} h => takeTake (s := u.clearReceived) h.beside _ t) he
  | landed a t => exact key (fun {u} h => takeLanded (s := u.clearReceived) h.beside a t) he
  | exit a t => exact key (fun {u} h => takeExit (s := u.clearReceived) h.beside t) he
  | grant g => exact key (fun {u} h => takeGrant (s := u.clearReceived) h.beside g) he
  | cancel d o => exact key (fun {u} h => takeCancel (s := u.clearReceived) h.beside d o) he
  | fetch d k => exact key (fun {u} h => takeFetch (s := u.clearReceived) h.beside d k) he
  | controlOpen d => exact key (fun {u} h => takeOpen (s := u.clearReceived) h.beside d) he
  | closeSoft d => exact key (fun {u} h => takeCloseSoft (s := u.clearReceived) h.beside d) he
  | closeHard d => exact key (fun {u} h => takeCloseHard (s := u.clearReceived) h.beside d) he
  | status d => exact key (fun {u} h => replyIf (s := u.clearReceived) h.beside d _ _) he
  | clearFaults d m => exact key (fun {u} h => takeClearFaults (s := u.clearReceived) h.beside d m) he
  | mark d n ws => exact key (fun {u} h => takeMark (s := u.clearReceived) h.beside d n ws) he
  | frameReceived bs => exact key (fun {u} h => deliver (s := u.clearReceived) h.beside bs _) he
  | transmitStart => exact key startHead he
  | arbitrationLost => exact key (f := State.stopCarriage) (fun h => h.beside) he
  | bidCarried => exact key bidCarried he
  | takeCarried => exact key takeCarried he
  | frameCarried => exact key otherCarried he

end TableForm

/-- The claims stay in order whatever the floor and the Line Table (R53, R87). -/
theorem ClaimsOk.exec {s t : State} (h : ClaimsOk s) (c : Instr) (he : Machine.exec c s = .next t) : ClaimsOk t := by
  cases hc : resets c with
  | false => exact ClaimsOk.keepsAll.exec c hc (fun _ _ => trivial) he h
  | true =>
      have same : ∀ {u : State}, u.floor = s.floor → u.contests = s.contests → u.cfg = s.cfg → ClaimsOk u := fun floor contests cfg => by
        refine ⟨floor ▸ h.ports, floor ▸ contests ▸ h.once, ?_⟩
        rw [State.committed, floor, contests, cfg]
        exact h.places
      cases c with
      | coldReset x =>
          cases he
          split
          · exact same rfl rfl rfl
          · exact (TableForm.takeReset _ _ _).claims
      | warmReset x =>
          cases he
          split
          · exact (TableForm.takeReset _ _ _).claims
          · exact same rfl rfl rfl
      | supplyFall =>
          cases he
          exact same rfl rfl rfl
      | resetAssertion =>
          cases he
          exact same rfl rfl rfl
      | _ => cases hc

end Sys2Proof.Machine

open Sys2Proof Sys2Proof.Machine

/-- Settles O60: a step is a millisecond of the clock or the front command; the claims keep in order by themselves, and floor, claims and
Line Table in form (`TableForm`) are kept together by every operation. -/
theorem claimsStayWithinPlaces : Obligations.ClaimsStayWithinPlaces := by
  intro s t claims hs
  have form : FloorOk s.floor → LinesOk s → TableForm s := fun floor lines => ⟨⟨claims.ports, floor⟩, claims, (linesOk_iff s).1 lines⟩
  unfold step at hs
  split at hs
  · cases hs
    exact ⟨ClaimsOk.keepsAll.idle trivial trivial claims, fun floor lines => (linesOk_iff _).2 (form floor lines).idle.lines⟩
  · rename_i c rest _
    have front : ClaimsOk { s with pending := rest } := ⟨claims.ports, claims.once, claims.places⟩
    exact ⟨front.exec _ hs, fun floor lines =>
      (linesOk_iff _).2 (TableForm.exec (s := { s with pending := rest }) (form floor lines).beside _ hs).lines⟩
end

section
/-! SUPPORT. The tests of a GRANT, each with what it asks (R28, R29), and what an accepted one makes (R30, R31, R37). -/

namespace Sys2Proof.Machine

theorem State.addressed_iff (s : State) (d : Dest) : s.addressed d = true ↔ d.first ≤ s.cfg.address ∧ s.cfg.address ≤ d.last := by
  simp [State.addressed, Dest.includes]

theorem State.not_addressed_iff (s : State) (d : Dest) : s.addressed d = false ↔ s.cfg.address < d.first ∨ d.last < s.cfg.address := by
  rw [← Bool.not_eq_true, State.addressed_iff]
  omega

/-- A queued frame leaves the Line Table and the put positions. -/
theorem State.queueFrame_table (s : State) (f : Frame) :
    (s.queueFrame f).lines = s.lines ∧ (s.queueFrame f).puts = s.puts ∧ (s.queueFrame f).arrival = s.arrival := by
  unfold State.queueFrame
  split <;> exact ⟨rfl, rfl, rfl⟩

/-! ### The tests of R29 -/

theorem grantMalformed_iff (g : GrantFrame) :
    grantMalformed g = true ↔ g.count ≠ g.lines.length ∨ g.dest.first ≠ g.dest.last ∨ g.order = 0 ∨
      ∃ l ∈ g.lines, l.lineNo = 0 ∨ l.sku = 0 ∨ l.cls = none := by
  simp [grantMalformed, or_assoc]

theorem putOutOfRange_iff (s : State) (g : GrantFrame) :
    (g.put == 0 || decide (s.cfg.puts < g.put)) = true ↔ g.put = 0 ∨ s.cfg.puts < g.put := by simp

theorem State.putBusy_iff (s : State) (g : GrantFrame) :
    s.putBusy g = true ↔ (∀ q ∈ s.put g.put, ¬(q.state = .free ∨ q.state = .opened ∧ q.order = some g.order)) ∨
      ∃ l ∈ s.lines, l.order = g.order ∧ l.put ≠ g.put := by
  rw [State.putBusy, Bool.or_eq_true]
  refine or_congr ?_ ?_
  · cases s.put g.put with
    | none => simp
    | some q => simp [-not_and, not_and_or]
  · simp [State.orderLines]

/-- A line of a class not served; of a well-formed grant every line has a class. -/
theorem notServed_iff (s : State) {g : GrantFrame} (wellFormed : grantMalformed g = false) :
    (g.lines.any fun x => !x.cls.any s.cfg.served.has) = true ↔ ∃ l ∈ g.lines, ∃ c ∈ l.cls, s.cfg.served.has c = false := by
  rw [List.any_eq_true]
  refine exists_congr fun l => and_congr_right fun hl => ?_
  cases hc : l.cls with
  | none =>
      refine absurd ((grantMalformed_iff g).2 (.inr (.inr (.inr ⟨l, hl, .inr (.inr hc)⟩)))) ?_
      simp [wellFormed]
  | some c => simp

theorem State.duplicateLine_iff (s : State) (g : GrantFrame) :
    s.duplicateLine g = true ↔ ¬(g.lines.map (·.lineNo)).Nodup ∨
      ∃ x ∈ g.lines, ∃ l ∈ s.lines, l.order = g.order ∧ l.lineNo = x.lineNo := by
  rw [State.duplicateLine, Bool.or_eq_true, ← repeatedLine_eq_false_iff, Bool.not_eq_false]
  simp [Line.hasKey]

/-! ### What R31 makes -/

theorem grantDue_eq (minute : Nat) (slack : BitVec 14) : grantDue minute slack = (minute : Int) + max (-63) (min 960 slack.toInt) := by
  rw [grantDue, grantSlack, clampInt_eq (by decide)]

section
variable {s : State} {g : GrantFrame}

theorem State.takeGrant_away (away : s.addressed g.dest = false) : s.takeGrant g = s := if_neg (by simp [away])

theorem State.takeGrant_refused (addressed : s.addressed g.dest = true) {r : ReplyOutcome} (refused : s.grantRefusal g = some r) :
    s.takeGrant g = s.reply g.dest.src (.grant g.order r) := by
  unfold State.takeGrant
  rw [if_pos addressed, refused]

theorem State.takeGrant_accepted (addressed : s.addressed g.dest = true) (accepted : s.grantRefusal g = none) :
    s.takeGrant g = ((s.enterGrant g).reply g.dest.src (.grant g.order .accepted)).allPasses := by
  unfold State.takeGrant
  rw [if_pos addressed, accepted]

theorem exec_grant (hs : s.live = true) : Machine.exec (.grant g) s = .next (s.clearReceived.takeGrant g) :=
  taken_of_live hs fun x => x.clearReceived.takeGrant g

theorem exec_grant_away (hs : s.live = true) (away : s.addressed g.dest = false) :
    Machine.exec (.grant g) s = .next s.clearReceived :=
  (exec_grant hs).trans (congrArg _ (State.takeGrant_away (s := s.clearReceived) away))

theorem exec_grant_refused (hs : s.live = true) (addressed : s.addressed g.dest = true) {r : ReplyOutcome}
    (refused : s.grantRefusal g = some r) : Machine.exec (.grant g) s = .next (s.clearReceived.reply g.dest.src (.grant g.order r)) :=
  (exec_grant hs).trans (congrArg _ (State.takeGrant_refused (s := s.clearReceived) addressed refused))

theorem exec_grant_accepted (hs : s.live = true) (addressed : s.addressed g.dest = true) (accepted : s.grantRefusal g = none) :
    Machine.exec (.grant g) s = .next ((s.clearReceived.enterGrant g).reply g.dest.src (.grant g.order .accepted)).allPasses :=
  (exec_grant hs).trans (congrArg _ (State.takeGrant_accepted (s := s.clearReceived) addressed accepted))

end

end Sys2Proof.Machine

open Sys2Proof Sys2Proof.Machine

/-- Settles O42: each test of R29 asks what the statement says, and they stand in this order. -/
theorem grantRefusalOrder : Obligations.GrantRefusalOrder := by
  intro s g malformed outOfRange busy notServed duplicate tooLong full
  have pass : ¬malformed → grantMalformed g = false := fun m => Bool.eq_false_iff.2 (mt (grantMalformed_iff g).1 m)
  have test : s.grantRefusal g =
      if malformed then some .malformed else if outOfRange then some .putRange else if busy then some .putBusy
      else if notServed then some .classNotServed else if duplicate then some .duplicateLine else if tooLong then some .orderTooLong
      else if full then some .tableFull else if s.mode ≠ .opened then some .benchClosed
      else if s.journal.bound = true then some .journalBound else none := by
    by_cases m : malformed
    · rw [if_pos m, State.grantRefusal, if_pos ((grantMalformed_iff g).2 m)]
    · rw [if_neg m, State.grantRefusal, if_neg (by simp [pass m])]
      simp only [putOutOfRange_iff, State.putBusy_iff, notServed_iff s (pass m), State.duplicateLine_iff, bne_iff_ne]
      rfl
  refine ⟨fun m => ?_, fun m r => ?_, fun m r b => ?_, fun m r b n => ?_, fun m r b n d => ?_, fun m r b n d l => ?_,
    fun m r b n d l f => ?_, fun m r b n d l f o => ?_, fun m r b n d l f o j => ?_, fun m r b n d l f o j => ?_,
    fun hs first last r hr => ?_⟩
  · rw [test, if_pos m]
  · rw [test, if_neg m, if_pos r]
  · rw [test, if_neg m, if_neg r, if_pos b]
  · rw [test, if_neg m, if_neg r, if_neg b, if_pos n]
  · rw [test, if_neg m, if_neg r, if_neg b, if_neg n, if_pos d]
  · rw [test, if_neg m, if_neg r, if_neg b, if_neg n, if_neg d, if_pos l]
  · rw [test, if_neg m, if_neg r, if_neg b, if_neg n, if_neg d, if_neg l, if_pos f]
  · rw [test, if_neg m, if_neg r, if_neg b, if_neg n, if_neg d, if_neg l, if_neg f, if_pos o]
  · rw [test, if_neg m, if_neg r, if_neg b, if_neg n, if_neg d, if_neg l, if_neg f, if_neg (not_not.2 o), if_pos j]
  · rw [test, if_neg m, if_neg r, if_neg b, if_neg n, if_neg d, if_neg l, if_neg f, if_neg (not_not.2 o), if_neg (by simp [j])]
  · have answered : exec (.grant g) s = .next (s.clearReceived.reply g.dest.src (.grant g.order r)) := 
      exec_grant_refused hs ((State.addressed_iff _ _).2 ⟨first, last⟩) hr
    refine ⟨answered, fun t ht => ?_⟩
    cases answered.symm.trans ht
    exact s.clearReceived.queueFrame_table _

/-- Settles O43: an addressed GRANT that no test refuses makes its records, and the passes follow the REPLY. -/
theorem grantAccepted : Obligations.GrantAccepted := by
  refine fun s g hs => ⟨fun away => ?_, fun first last accepted => ?_⟩
  · exact exec_grant_away hs ((State.not_addressed_iff _ _).2 away)
  · rw [exec_grant_accepted hs ((State.addressed_iff _ _).2 ⟨first, last⟩) accepted]
    have records : s.clearReceived.grantedLine g = fun i x =>
        { order := g.order, lineNo := x.lineNo, sku := x.sku, put := g.put
          requested := min (x.qtyField.toNat + 1) 255, picked := 0, short := false, cancelPending := false
          due := (s.minute : Int) + max (-63) (min 960 x.slack.toInt), cls := x.cls.getD .ambient
          arrival := s.arrival + i, state := .waiting, binding := none } := by
      funext i x
      rw [← grantDue_eq]
      rfl
    rw [State.enterGrant, records]
    rfl
end

section
/-! SUPPORT. What a CANCEL marks, the claims it gives back and the answer it makes (R33, R35, R39, R82). -/

namespace Sys2Proof.Machine

/-! ### Answers -/

section
variable {s : State} {d : Dest} {o : OrderId}

theorem exec_cancel (hs : s.live = true) : Machine.exec (.cancel d o) s = .next (s.clearReceived.takeCancel d o) :=
  taken_of_live hs fun x => x.clearReceived.takeCancel d o

theorem exec_cancel_away (hs : s.live = true) (away : s.addressed d = false) : Machine.exec (.cancel d o) s = .next s.clearReceived :=
  (exec_cancel hs).trans (congrArg _ (if_neg (by rw [Bool.not_eq_true]; exact away)))

theorem exec_cancel_malformed (hs : s.live = true) (addressed : s.addressed d = true) (range : d.first ≠ d.last) :
    Machine.exec (.cancel d o) s = .next (s.clearReceived.reply d.src (.cancel o .malformed 0 false)) :=
  (exec_cancel hs).trans (congrArg _ ((if_pos addressed).trans (if_pos range)))

theorem exec_cancel_notFound (hs : s.live = true) (addressed : s.addressed d = true) (one : d.first = d.last)
    (none : s.orderLines o = []) :
    Machine.exec (.cancel d o) s = .next (s.clearReceived.reply d.src (.cancel o .notFound 0 false)) :=
  (exec_cancel hs).trans (congrArg _ ((if_pos addressed).trans ((if_neg (not_not.2 one)).trans (if_pos (List.isEmpty_iff.2 none)))))

theorem exec_cancel_held (hs : s.live = true) (addressed : s.addressed d = true) (one : d.first = d.last)
    (some : s.orderLines o ≠ []) : Machine.exec (.cancel d o) s = .next (s.clearReceived.cancelOrder d.src o) :=
  (exec_cancel hs).trans (congrArg _ ((if_pos addressed).trans ((if_neg (not_not.2 one)).trans
    (if_neg (mt List.isEmpty_iff.1 some)))))

end

/-! ### The lines marked -/

theorem LineState.cancellable_iff (st : LineState) :
    st.cancellable = true ↔ st = .waiting ∨ st = .provisional ∨ st = .reserved := by
  cases st <;> simp [LineState.cancellable]

theorem Line.cancel_eq (o : OrderId) (l : Line) :
    l.cancel o =
      if l.order = o ∧ (l.state = .waiting ∨ l.state = .provisional ∨ l.state = .reserved) then
        { l with state := .cancelled, binding := none }
      else if l.order = o ∧ l.state = .active then { l with cancelPending := true }
      else l := by
  simp only [← LineState.cancellable_iff]
  by_cases ho : l.order = o
  · rcases l.state.cases with hc | ha | hf
    · rw [Line.cancel_cancellable ho hc, if_pos ⟨ho, hc⟩]
    · rw [Line.cancel_active ho ha, if_neg (by simp [ha, LineState.cancellable]), if_pos ⟨ho, ha⟩]
    · rw [Line.cancel_final hf, if_neg, if_neg]
      all_goals
        rintro ⟨-, h⟩
        cases hs : l.state <;> simp_all [LineState.final, LineState.cancellable]
  · rw [Line.cancel_other ho, if_neg (ho ·.1), if_neg (ho ·.1)]

theorem Line.cancel_order (o : OrderId) (l : Line) : (l.cancel o).order = l.order := Line.order_of_key (l.cancel_key o)

theorem Line.cancel_short (o : OrderId) (l : Line) : (l.cancel o).short = l.short := by
  rw [Line.cancel_eq]
  split
  · rfl
  · split <;> rfl

/-- The records of an order are marked where they stand. -/
theorem State.cancelLines_orderLines (s : State) (o p : OrderId) :
    (s.cancelLines o).orderLines p = (s.orderLines p).map (Line.cancel o) := by
  rw [State.orderLines, State.cancelLines, List.filter_map]
  congr 2
  funext l
  exact congrArg (· == p) (l.cancel_order o)

/-- A line of the order is ACTIVE and cancel-pending after the CANCEL exactly when it was ACTIVE before. -/
theorem Line.cancel_pending (o : OrderId) {l : Line} (ho : l.order = o) :
    ((l.cancel o).state == .active && (l.cancel o).cancelPending) = (l.state == .active) := by
  rcases l.state.cases with hc | ha | hf
  · have idle : l.state ≠ .active := fun ha => by rw [ha] at hc; cases hc
    rw [Line.cancel_cancellable ho hc, beq_eq_false_iff_ne.2 idle]
    rfl
  · rw [Line.cancel_active ho ha, ha]
    rfl
  · rw [Line.cancel_final hf]
    cases hs : l.state <;> simp_all [LineState.final]

/-- The REPLY to a CANCEL says whether a line of the order was ACTIVE (R35). -/
theorem State.cancelLines_pending (s : State) (o : OrderId) :
    ((s.cancelLines o).orderLines o).any (fun l => l.state == .active && l.cancelPending) =
      s.lines.any fun y => y.order == o && y.state == .active := by
  rw [State.cancelLines_orderLines, List.any_map, State.orderLines, List.any_filter]
  congr 1
  funext l
  by_cases ho : l.order = o
  · rw [Function.comp_apply, Line.cancel_pending o ho]
  · rw [beq_eq_false_iff_ne.2 ho]
    rfl

/-! ### A CANCEL that takes nothing off a list -/

theorem map_fixed {α : Type} {f : α → α} {l : List α} (h : ∀ x ∈ l, f x = x) : l.map f = l := (List.map_congr_left h).trans l.map_id'

theorem Floor.mapTotes_of_fixed {fl : Floor} {f : Tote → Tote} (h : ∀ x ∈ fl.allTotes, f x = x) : fl.mapTotes f = fl := by
  have lane : fl.lane.map f = fl.lane := map_fixed fun x hx => h x (Floor.mem_allTotes.2 (.inl hx))
  have ports : fl.ports.map (fun p => { p with tote := p.tote.map f }) = fl.ports := map_fixed fun q hq => by
    cases hx : q.tote with
    | none => rw [Option.map_none, ← hx]
    | some x => rw [Option.map_some, h x (Floor.mem_allTotes.2 (.inr (.inl ⟨q, hq, hx⟩))), ← hx]
  have release : fl.releaseLane.map (Option.map f) = fl.releaseLane := map_fixed fun y hy => by
    cases y with
    | none => rfl
    | some x => rw [Option.map_some, h x (Floor.mem_allTotes.2 (.inr (.inr hy)))]
  rw [Floor.mapTotes, lane, ports, release]

theorem State.presentedTotes_mem {s : State} {x : Nat × Tote} (h : x ∈ s.presentedTotes) : x.2 ∈ s.floor.allTotes := by
  obtain ⟨n, -, hn⟩ := List.mem_filterMap.1 h
  obtain ⟨y, hy, rfl⟩ := Option.map_eq_some_iff.1 hn
  exact Floor.presentedTote_mem hy

section
variable {s : State} {o : OrderId} (claims : ∀ c ∈ s.contests, ∀ b ∈ c.bound, s.cancels o b = false)
  (totes : ∀ x ∈ s.floor.allTotes, ∀ b ∈ x.bound, s.cancels o b = false)
include claims totes

theorem State.cancelLines_untouched : s.cancelLines o = { s with lines := s.lines.map (Line.cancel o) } := by
  have keep : ∀ bs : List BoundLine, (∀ b ∈ bs, s.cancels o b = false) → bs.filter (fun b => !s.cancels o b) = bs := fun bs h =>
    List.filter_eq_self.2 fun b hb => by rw [h b hb]; rfl
  have contests : s.contests.map (fun c => { c with bound := c.bound.filter fun b => !s.cancels o b }) = s.contests :=
    map_fixed fun c hc => by rw [keep _ (claims c hc)]
  have floor : s.floor.mapTotes (fun x => { x with bound := x.bound.filter fun b => !s.cancels o b }) = s.floor :=
    Floor.mapTotes_of_fixed fun x hx => by rw [keep _ (totes x hx)]
  rw [State.cancelLines, contests, floor]

theorem State.losing_untouched : s.losingContests o = [] ∧ s.losingPorts o = [] := by
  have none : ∀ bs : List BoundLine, (∀ b ∈ bs, s.cancels o b = false) → ¬bs.any (s.cancels o) = true := fun bs h => by
    rw [List.any_eq_true]
    rintro ⟨b, hb, hit⟩
    rw [h b hb] at hit
    cases hit
  constructor
  · rw [State.losingContests, List.filter_eq_nil_iff.2 fun c hc => none _ (claims c hc), List.map_nil]
  · rw [State.losingPorts, List.filter_eq_nil_iff.2 fun x hx => none _ (totes x.2 (State.presentedTotes_mem hx)), List.map_nil]

theorem State.cancelOrder_untouched (n : Nat) :
    s.cancelOrder n o = (State.orderCheck { s with lines := s.lines.map (Line.cancel o) } o).reply n
      (.cancel o .accepted ((s.orderLines o).countP fun l => l.state.cancellable)
        (s.lines.any fun y => y.order == o && y.state == .active)) := by
  obtain ⟨contests, ports⟩ := State.losing_untouched claims totes
  unfold State.cancelOrder
  dsimp only
  rw [State.cancelLines_pending, contests, ports, State.cancelLines_untouched claims totes, List.foldl_nil, List.foldl_nil]

end

/-! ### The order-complete check (R39) -/

theorem State.orderCheck_open {s : State} {o : OrderId} {l : Line} (hl : l ∈ s.orderLines o) (hs : l.state.final = false) :
    s.orderCheck o = s := by
  unfold State.orderCheck
  split
  · rfl
  · rename_i x xs e
    rw [e] at hl
    exact if_neg fun all => by simpa [hs] using List.all_eq_true.1 all l hl

theorem State.orderCheck_complete {s : State} {o : OrderId} {l : Line} {ls : List Line} (e : s.orderLines o = l :: ls)
    (final : ∀ x ∈ l :: ls, x.state.final = true) :
    s.orderCheck o =
      { s with
        puts := s.puts.map fun q => if q.num == l.put then { q with state := .complete, emptied := !q.occupied } else q
        journal := s.journal.write s.now
          (.orderComplete o l.put ((l :: ls).countP fun x => x.state == .done) ((l :: ls).countP (·.short))
            ((l :: ls).countP fun x => x.state == .cancelled))
        lines := s.lines.filter fun x => x.order != o } := by
  unfold State.orderCheck
  rw [e]
  exact if_pos (List.all_eq_true.2 final)

section
variable {s : State} {o : OrderId} {l : Line}

theorem State.mem_orderLines {y : Line} : y ∈ s.orderLines o ↔ y ∈ s.lines ∧ y.order = o := by
  simp [State.orderLines]

/-- The lines of other orders stay (R33). -/
theorem cancel_others (ls : List Line) (o : OrderId) :
    (ls.map (Line.cancel o)).filter (fun y => y.order != o) = ls.filter fun y => y.order != o := by
  rw [List.filter_map, show (fun y : Line => y.order != o) ∘ Line.cancel o = fun y => y.order != o from
    funext fun y => congrArg (· != o) (y.cancel_order o)]
  exact map_fixed fun y hy => Line.cancel_other (by simpa using (List.mem_filter.1 hy).2)

/-- A CANCEL of an order that waits whole (R33, R39). -/
theorem State.cancelOrder_waiting (n : Nat) {ls : List Line} (order : s.orderLines o = l :: ls)
    (waiting : ∀ y ∈ l :: ls, y.state = .waiting) (claims : ∀ c ∈ s.contests, ∀ b ∈ c.bound, b.order ≠ o)
    (totes : ∀ x ∈ s.floor.allTotes, ∀ b ∈ x.bound, b.order ≠ o) :
    s.cancelOrder n o = State.reply
      { s with
        lines := s.lines.filter fun y => y.order != o
        puts := s.puts.map fun q => if q.num == l.put then { q with state := .complete, emptied := !q.occupied } else q
        journal := s.journal.write s.now (.orderComplete o l.put 0 ((l :: ls).filter (·.short)).length (l :: ls).length) }
      n (.cancel o .accepted (l :: ls).length false) := by
  have off : ∀ b : BoundLine, b.order ≠ o → s.cancels o b = false := fun b hb => by
    rw [State.cancels, beq_eq_false_iff_ne.2 hb, Bool.false_and]
  have own : ∀ y ∈ s.lines, y.order = o → y.state = .waiting := fun y hy ho =>
    waiting y (order ▸ State.mem_orderLines.2 ⟨hy, ho⟩)
  have cancelled : ∀ x ∈ l :: ls, x.cancel o = { x with state := .cancelled, binding := none } := fun x hx => by
    have here : x ∈ s.orderLines o := by
      rw [order]
      exact hx
    exact Line.cancel_cancellable (State.mem_orderLines.1 here).2 (by rw [waiting x hx]; rfl)
  have marked : State.orderLines { s with lines := s.lines.map (Line.cancel o) } o = l.cancel o :: ls.map (Line.cancel o) :=
    (s.cancelLines_orderLines o o).trans (by rw [order, List.map_cons])
  have states : ∀ x ∈ l.cancel o :: ls.map (Line.cancel o), x.state = .cancelled := by
    rw [← List.map_cons]
    refine List.forall_mem_map.2 fun x hx => ?_
    rw [cancelled x hx]
  have none : (l.cancel o :: ls.map (Line.cancel o)).countP (fun x => x.state == .done) = 0 :=
    List.countP_eq_zero.2 fun x hx => by simp [states x hx]
  have all : (l.cancel o :: ls.map (Line.cancel o)).countP (fun x => x.state == .cancelled) = (l :: ls).length := by
    rw [← List.map_cons, ← List.length_map (f := Line.cancel o), List.countP_eq_length, List.map_cons]
    exact fun x hx => by simp [states x hx]
  have short : (l.cancel o :: ls.map (Line.cancel o)).countP (·.short) = ((l :: ls).filter (·.short)).length := by
    rw [← List.map_cons, List.countP_map, ← List.countP_eq_length_filter]
    exact List.countP_congr fun x _ => by rw [Function.comp_apply, Line.cancel_short]
  have counted : (l :: ls).countP (fun y => y.state.cancellable) = (l :: ls).length :=
    List.countP_eq_length.2 fun x hx => by rw [waiting x hx]; rfl
  have dark : (s.lines.any fun y => y.order == o && y.state == .active) = false := by
    rw [Bool.eq_false_iff, ne_eq, List.any_eq_true]
    rintro ⟨y, hy, active⟩
    rw [Bool.and_eq_true, beq_iff_eq, beq_iff_eq] at active
    cases (own y hy active.1).symm.trans active.2
  have put : (l.cancel o).put = l.put := l.cancel_put o
  rw [State.cancelOrder_untouched (fun c hc b hb => off b (claims c hc b hb)) (fun x hx b hb => off b (totes x hx b hb)),
    State.orderCheck_complete marked (fun x hx => by rw [states x hx]; rfl), none, all, short, put, order, counted, dark, cancel_others]
  rfl

/-- A CANCEL of an order whose only line is lit (R33, R34). -/
theorem State.cancelOrder_lit (n : Nat) (order : s.orderLines o = [l]) (active : l.state = .active)
    (claims : ∀ c ∈ s.contests, ∀ b ∈ c.bound, b.order = o → b.lineNo = l.lineNo)
    (totes : ∀ x ∈ s.floor.allTotes, ∀ b ∈ x.bound, b.order = o → b.lineNo = l.lineNo) :
    s.cancelOrder n o = State.reply
      { s with lines := s.lines.map fun y => if y.order == o then { y with cancelPending := true } else y }
      n (.cancel o .accepted 0 true) := by
  have here : l ∈ s.orderLines o := by simp [order]
  obtain ⟨mem, ho⟩ := State.mem_orderLines.1 here
  have only : ∀ y ∈ s.lines, y.order = o → y = l := fun y hy hyo => by
    have hy' := State.mem_orderLines.2 ⟨hy, hyo⟩
    rwa [order, List.mem_singleton] at hy'
  have off : ∀ b : BoundLine, (b.order = o → b.lineNo = l.lineNo) → s.cancels o b = false := fun b hb => by
    by_cases e : b.order = o
    · have found : s.lineOf b = some l := by
        have bound : l.isBound b = true := (l.isBound_iff b).2 (by rw [Line.key, ho, e, hb e])
        obtain ⟨y, hy⟩ := Option.isSome_iff_exists.1 ((List.find?_isSome (p := fun y => Line.isBound y b)).2 ⟨l, mem, bound⟩)
        obtain ⟨hy1, hy2⟩ := State.lineOf_some (s := s) hy
        have key := (y.isBound_iff b).1 hy2
        rw [State.lineOf, hy, only y hy1 ((congrArg Prod.fst key).trans e)]
      rw [State.cancels, State.boundIn_of_lineOf found, active]
      simp
    · rw [State.cancels, beq_eq_false_iff_ne.2 e, Bool.false_and]
  have marks : s.lines.map (Line.cancel o) = s.lines.map fun y => if y.order == o then { y with cancelPending := true } else y :=
    List.map_congr_left fun y hy => by
      by_cases e : y.order = o
      · rw [if_pos (beq_iff_eq.2 e), Line.cancel_active e (by rw [only y hy e]; exact active)]
      · rw [if_neg (mt beq_iff_eq.1 e), Line.cancel_other e]
  have marked : l.cancel o ∈ State.orderLines { s with lines := s.lines.map (Line.cancel o) } o :=
    State.mem_orderLines.2 ⟨List.mem_map_of_mem mem, (l.cancel_order o).trans ho⟩
  have counted : (s.orderLines o).countP (fun y => y.state.cancellable) = 0 := by
    rw [order]
    simp [active, LineState.cancellable]
  have lit : (s.lines.any fun y => y.order == o && y.state == .active) = true :=
    List.any_eq_true.2 ⟨l, mem, by simp [ho, active]⟩
  rw [State.cancelOrder_untouched (fun c hc b hb => off b (claims c hc b hb)) (fun x hx b hb => off b (totes x hx b hb)),
    State.orderCheck_open marked (by rw [Line.cancel_active ho active, active]; rfl), counted, lit, marks]

end

/-! ### Claims given back (R82) -/

/-- A claim that loses lines to the CANCEL. -/
def State.loses (s : State) (o : OrderId) (c : Contest) : Bool := c.bound.any (s.cancels o)

/-- A CLAIMED record whose whole list the CANCEL takes. -/
def State.empties (s : State) (o : OrderId) (c : Contest) : Bool :=
  (c.state == .awaitingSlot || c.state == .lastChance) && !c.bound.isEmpty && c.bound.all (s.cancels o)

theorem State.loses_of_empties {s : State} {o : OrderId} {c : Contest} (h : s.empties o c = true) : s.loses o c = true := by
  simp only [State.empties, Bool.and_eq_true, Bool.not_eq_true', List.all_eq_true] at h
  obtain ⟨⟨-, some⟩, all⟩ := h
  obtain ⟨b, hb⟩ := List.exists_mem_of_ne_nil _ (List.isEmpty_eq_false_iff.1 some)
  exact List.any_eq_true.2 ⟨b, hb, all b hb⟩

theorem ContestState.claimed_eq (st : ContestState) : st.claimed = (st == .awaitingSlot || st == .lastChance) := by
  cases st <;> rfl

/-- A claim without the entries that the CANCEL takes. -/
def State.shortened (s : State) (o : OrderId) (c : Contest) : Contest := { c with bound := c.bound.filter fun b => !s.cancels o b }

/-- A claim that loses lines is given back exactly when its list is left empty. -/
theorem State.giveBackEmpty_shortened {s u : State} {o : OrderId} {c : Contest} (hc : u.contestOf c.tote = some (s.shortened o c))
    (loses : s.loses o c = true) :
    u.giveBackEmpty c.tote = if s.empties o c then u.endContest { c with bound := [] } .relinquished c.slot else u := by
  have some : c.bound.isEmpty = false := by
    obtain ⟨b, hb, -⟩ := List.any_eq_true.1 loses
    exact List.isEmpty_eq_false_iff.2 (List.ne_nil_of_mem hb)
  have left : (s.shortened o c).bound.isEmpty = c.bound.all (s.cancels o) := by
    rw [Bool.eq_iff_iff, List.isEmpty_iff, List.all_eq_true]
    simp [State.shortened, List.filter_eq_nil_iff]
  have cond : ((s.shortened o c).state.claimed && (s.shortened o c).bound.isEmpty) = s.empties o c := by
    rw [left, ContestState.claimed_eq, State.empties, some]
    simp [State.shortened]
  unfold State.giveBackEmpty
  rw [hc]
  dsimp only
  rw [cond]
  split
  · rename_i empties
    have none : (s.shortened o c).bound = [] := by
      rw [← List.isEmpty_iff, left]
      simp only [State.empties, Bool.and_eq_true] at empties
      exact empties.2
    have same : s.shortened o c = { c with bound := [] } := by
      rw [← none]
      rfl
    rw [same]
  · rfl

/-- The claims left without lines are given back in table order. -/
theorem State.giveBack_foldl (s : State) (o : OrderId) (cs : List Contest) (u : State) (once : (cs.map (·.tote)).Nodup)
    (found : ∀ c ∈ cs, u.contestOf c.tote = some (s.shortened o c)) :
    ((cs.filter (s.loses o)).map (·.tote)).foldl State.giveBackEmpty u =
      (cs.filter (s.empties o)).foldl (fun u c => u.endContest { c with bound := [] } .relinquished c.slot) u := by
  induction cs generalizing u with
  | nil => rfl
  | cons c cs ih =>
      obtain ⟨fresh, rest⟩ := List.nodup_cons.1 once
      have later : ∀ e ∈ cs, u.contestOf e.tote = some (s.shortened o e) := fun e he => found e (List.mem_cons_of_mem _ he)
      cases loses : s.loses o c with
      | false =>
          have keeps : ¬s.empties o c = true := fun h => by simp [State.loses_of_empties h] at loses
          rw [List.filter_cons_of_neg (by simp [loses]), List.filter_cons_of_neg keeps]
          exact ih u rest later
      | true =>
          rw [List.filter_cons_of_pos loses, List.map_cons, List.foldl_cons,
            State.giveBackEmpty_shortened (found c List.mem_cons_self) loses]
          cases empties : s.empties o c with
          | false =>
              rw [List.filter_cons_of_neg (by simp [empties]), if_neg Bool.false_ne_true]
              exact ih u rest later
          | true =>
              rw [List.filter_cons_of_pos empties, List.foldl_cons, if_pos rfl]
              refine ih _ rest fun e he => ?_
              have other : e.tote ≠ c.tote := fun h => fresh (List.mem_map.2 ⟨e, he, h⟩)
              rw [State.contestOf, State.endContest_contests, List.find?_filter, ← later e he, State.contestOf]
              congr 1
              funext x
              by_cases hx : x.tote = e.tote <;> simp [hx, other]

end Sys2Proof.Machine

open Sys2Proof Sys2Proof.Machine

/-- Settles O44: what a CANCEL marks is `State.cancelLines`; where no list names a line that it ends, claims and totes stay as they are. -/
theorem cancelEndsOrder : Obligations.CancelEndsOrder := by
  intro s d o hs
  refine ⟨fun away => exec_cancel_away hs ((State.not_addressed_iff _ _).2 away),
    fun first last range => exec_cancel_malformed hs ((State.addressed_iff _ _).2 ⟨first, last⟩) range, fun first last => ?_⟩
  have addressed : s.addressed d = true := (State.addressed_iff _ _).2 ⟨first.le, last.ge⟩
  have one : d.first = d.last := first.trans last.symm
  refine ⟨fun none => ?_, fun l ls order waiting claims totes => ?_, fun l order active claims totes => ?_, fun held once => ?_⟩
  · refine exec_cancel_notFound hs addressed one (List.filter_eq_nil_iff.2 fun l hl => ?_)
    simpa using none l hl
  · rw [exec_cancel_held hs addressed one (by rw [State.orderLines, order]; exact List.cons_ne_nil _ _)]
    exact congrArg _ (State.cancelOrder_waiting (s := s.clearReceived) d.src order waiting claims totes)
  · rw [exec_cancel_held hs addressed one (by rw [State.orderLines, order]; exact List.cons_ne_nil _ _)]
    exact congrArg _ (State.cancelOrder_lit (s := s.clearReceived) d.src order active claims totes)
  · intro ends off marked emptied freed losers tested
    obtain ⟨l, hl, ho⟩ := held
    rw [exec_cancel_held hs addressed one (List.ne_nil_of_mem (State.mem_orderLines.2 ⟨hl, ho⟩))]
    have marks : s.clearReceived.cancelLines o = marked := by
      have lines : (fun y : Line => y.cancel o) = fun y =>
          if y.order = o ∧ ends y then { y with state := .cancelled, binding := none }
          else if y.order = o ∧ y.state = .active then { y with cancelPending := true }
          else y := funext fun y => y.cancel_eq o
      exact congrArg (fun f => { s.clearReceived.cancelLines o with lines := s.lines.map f }) lines
    have freed' : (s.clearReceived.losingContests o).foldl State.giveBackEmpty (s.clearReceived.cancelLines o) = freed := by
      rw [marks]
      refine State.giveBack_foldl s o s.contests marked once fun c hc => ?_
      have once' : (marked.contests.map (·.tote)).Nodup := by
        rw [List.map_map]
        exact once
      exact State.contestOf_of_mem once' (c := s.shortened o c) (List.mem_map_of_mem hc)
    have counted : (s.orderLines o).countP (fun y => y.state.cancellable) =
        (s.lines.filter fun y => y.order = o ∧ ends y).length := by
      rw [State.orderLines, List.countP_filter, List.countP_eq_length_filter]
      refine congrArg _ (List.filter_congr fun y _ => ?_)
      rw [Bool.eq_iff_iff, Bool.and_eq_true, LineState.cancellable_iff, beq_iff_eq, and_comm, decide_eq_true_iff]
    unfold State.cancelOrder
    dsimp only
    rw [State.cancelLines_pending, freed']
    change Host.Outcome.next (State.reply _ _ (.cancel o .accepted ((s.orderLines o).countP _) _)) = _
    rw [counted]
    rfl
end

section
/-! SUPPORT. Put sensor reports by the state of the position, and the withdrawal of the lit task (R36, R38, R40, R138). -/

namespace Sys2Proof.Machine

section
variable {s : State} {p : Nat} {q : Put} {occ : Bool}

theorem State.updPut_updPut (s : State) (p : Nat) (f g : Put → Put) (num : ∀ y, (f y).num = y.num) :
    (s.updPut p f).updPut p g = s.updPut p fun y => g (f y) := by
  have puts : ((s.puts.map fun y => if y.num == p then f y else y).map fun y => if y.num == p then g y else y) =
      s.puts.map fun y => if y.num == p then g (f y) else y := by
    rw [List.map_map]
    refine List.map_congr_left fun y _ => ?_
    rw [Function.comp_apply]
    by_cases e : (y.num == p) = true
    · rw [if_pos e, if_pos e, if_pos (by rw [num]; exact e)]
    · rw [if_neg e, if_neg e, if_neg e]
  exact congrArg (fun x => { s with puts := x }) puts

/-- The occupancy recorded at a position. -/
def Put.occupiedBy (occ : Bool) (y : Put) : Put := { y with occupied := occ }

theorem State.putReport_same (hq : s.put p = some q) (same : q.occupied = occ) : s.putReport p occ = s := by
  unfold State.putReport
  rw [hq]
  exact if_pos (beq_iff_eq.2 same)

theorem State.putReport_free (hq : s.put p = some q) (differs : q.occupied ≠ occ) (free : q.state = .free) :
    s.putReport p occ = s.updPut p (Put.occupiedBy occ) := by
  unfold State.putReport
  rw [hq]
  refine (if_neg (mt beq_iff_eq.1 differs)).trans ?_
  simp only [free]
  rfl

theorem State.putReport_lifted (hq : s.put p = some q) (full : q.occupied = true) (opened : q.state = .opened) :
    s.putReport p false = (s.updPut p fun y => { y with occupied := false, state := .suspended }).withdrawAt p := by
  unfold State.putReport
  rw [hq]
  refine (if_neg (by simp [full])).trans ?_
  simp only [opened]
  exact congrArg (State.withdrawAt · p)
    (s.updPut_updPut p (fun y => { y with occupied := false }) (fun y => { y with state := .suspended }) fun _ => rfl)

theorem State.putReport_returned (hq : s.put p = some q) (empty : q.occupied = false) (suspended : q.state = .suspended) :
    s.putReport p true = (s.updPut p fun y => { y with occupied := true, state := .opened }).taskChoice := by
  unfold State.putReport
  rw [hq]
  refine (if_neg (by simp [empty])).trans ?_
  simp only [suspended]
  exact congrArg State.taskChoice
    (s.updPut_updPut p (fun y => { y with occupied := true }) (fun y => { y with state := .opened }) fun _ => rfl)

theorem State.putReport_emptied (hq : s.put p = some q) (full : q.occupied = true) (complete : q.state = .complete) :
    s.putReport p false = s.updPut p fun y => { y with occupied := false, emptied := true } := by
  unfold State.putReport
  rw [hq]
  refine (if_neg (by simp [full])).trans ?_
  simp only [complete]
  exact s.updPut_updPut p (fun y => { y with occupied := false }) (fun y => { y with emptied := true }) fun _ => rfl

theorem State.putReport_swapped (hq : s.put p = some q) (empty : q.occupied = false) (complete : q.state = .complete)
    (emptied : q.emptied = true) :
    s.putReport p true =
      (s.updPut p fun y => { y with occupied := true, state := .free, order := none }).write (.putSwapped p (q.order.getD 0)) := by
  unfold State.putReport
  rw [hq]
  refine (if_neg (by simp [empty])).trans ?_
  simp only [complete, emptied]
  exact congrArg (State.write · _)
    (s.updPut_updPut p (fun y => { y with occupied := true }) (fun y => { y with state := .free, order := none }) fun _ => rfl)

end

/-! ### The withdrawal of the lit task (R138) -/

section
variable {s : State} {t : Task} {l : Line}

theorem State.withdrawAt_other {p : Nat} (other : s.panel.task.any (fun t => t.put == p) = false) : s.withdrawAt p = s := by
  unfold State.withdrawAt
  split
  · rename_i t ht
    rw [ht, Option.any_some, beq_eq_false_iff_ne] at other
    exact if_neg other
  · rfl

theorem State.withdrawAt_task (ht : s.panel.task = some t) : s.withdrawAt t.put = s.withdrawTask t := by
  unfold State.withdrawAt
  rw [ht]
  exact if_pos rfl

/-- The one record with the task's order and line number is the one with its key. -/
theorem Task.key_only {ls : List Line} (single : ∀ y ∈ ls, y.order = t.order → y.lineNo = t.lineNo → y = l) :
    ∀ y ∈ ls, y.hasKey t.order t.lineNo = true → y = l := fun y hy hit => by
  obtain ⟨order, lineNo⟩ := Prod.mk.inj ((y.hasKey_iff _ _).1 hit)
  exact single y hy order lineNo

/-- The one record of a task's line is the record found for it. -/
theorem State.taskLine_eq (hl : l ∈ s.lines) (key : l.hasKey t.order t.lineNo = true)
    (only : ∀ y ∈ s.lines, y.hasKey t.order t.lineNo = true → y = l) : s.taskLine t = some l := by
  obtain ⟨y, hy⟩ := Option.isSome_iff_exists.1
    ((List.find?_isSome (p := fun y => Line.hasKey y t.order t.lineNo)).2 ⟨l, hl, key⟩)
  have hit : y.hasKey t.order t.lineNo = true := by simpa using List.find?_some hy
  rw [State.taskLine, hy, only y (List.mem_of_find?_eq_some hy) hit]

/-- A change of the task's line is known from what it does to that one record. -/
theorem State.updLine_congr (only : ∀ y ∈ s.lines, y.hasKey t.order t.lineNo = true → y = l) {f g : Line → Line} (same : f l = g l) :
    s.updLine t.order t.lineNo f = s.updLine t.order t.lineNo g := by
  have lines : (s.lines.map fun y => if y.hasKey t.order t.lineNo then f y else y) =
      s.lines.map fun y => if y.hasKey t.order t.lineNo then g y else y := List.map_congr_left fun y hy => by
    by_cases key : y.hasKey t.order t.lineNo = true
    · rw [if_pos key, if_pos key, only y hy key, same]
    · rw [if_neg key, if_neg key]
  exact congrArg (fun x => { s with lines := x }) lines

variable (found : s.taskLine t = some l) (only : ∀ y ∈ s.lines, y.hasKey t.order t.lineNo = true → y = l)
include found only

theorem State.withdrawLine_kept (kept : l.cancelPending = false) :
    s.withdrawLine t = s.updLine t.order t.lineNo fun y => { y with state := .reserved } := by
  refine Eq.trans ?_ (State.updLine_congr only (f := Line.withdrawn) (g := fun y => { y with state := .reserved })
    (if_neg (by simp [kept])))
  unfold State.withdrawLine
  rw [found]
  exact if_neg (by simp [kept])

theorem State.withdrawLine_pending (pending : l.cancelPending = true) :
    s.withdrawLine t =
      ((s.updLine t.order t.lineNo fun y => { y with state := .cancelled, binding := none, cancelPending := false }).unlist
        t.tote t.order t.lineNo).orderCheck t.order := by
  rw [← State.updLine_congr only (f := Line.withdrawn)
    (g := fun y => { y with state := .cancelled, binding := none, cancelPending := false }) (if_pos pending)]
  unfold State.withdrawLine
  rw [found]
  exact if_pos (by simp [pending])

end

end Sys2Proof.Machine

open Sys2Proof Sys2Proof.Machine

/-- Settles O34, by the state of the position and the report. -/
theorem putSensorReports : Obligations.PutSensorReports := by
  intro s p q occ hs hq changed
  have report : exec (.putSensorReport p occ) s = .next (s.putReport p occ) := taken_of_live hs _
  rw [report]
  refine ⟨fun same => ?_, fun differs free => ?_, fun full gone opened other => ?_, ?_, fun empty back suspended => ?_,
    fun full gone complete => ?_, fun empty back complete emptied => ?_⟩
  · rw [State.putReport_same hq same]
  · rw [State.putReport_free hq differs free]
    rfl
  · subst gone
    exact congrArg _ ((State.putReport_lifted hq full opened).trans (State.withdrawAt_other (s := s.updPut p _) other))
  · intro t l full gone opened ht hp hl order lineNo single dark back
    subst gone
    subst hp
    have key : l.hasKey t.order t.lineNo = true := by simp [Line.hasKey, order, lineNo]
    have only := Task.key_only single
    have found : dark.taskLine t = some l := State.taskLine_eq (s := dark) hl key only
    have withdrawn : s.putReport t.put false = State.taskChoice ((dark.withdrawLine t).releaseTest t.port) :=
      (State.putReport_lifted hq full opened).trans (State.withdrawAt_task (s := s.updPut t.put _) ht)
    refine ⟨fun kept => ?_, fun pending => ?_⟩
    · rw [withdrawn, State.withdrawLine_kept found only kept]
      rfl
    · rw [withdrawn, State.withdrawLine_pending found only pending]
      rfl
  · subst back
    rw [State.putReport_returned hq empty suspended]
    rfl
  · subst gone
    rw [State.putReport_emptied hq full complete]
    rfl
  · subst back
    rw [State.putReport_swapped hq empty complete emptied]
    rfl
end

section
/-! SUPPORT. The steps of an applied confirm put together (R94, R132 to R137), and the order-complete check case by case (R39). -/

namespace Sys2Proof.Machine

/-! ### The state between step 4 and the entry (R135) -/

theorem Floor.mapTotes_mapTotes (fl : Floor) (f g : Tote → Tote) : (fl.mapTotes f).mapTotes g = fl.mapTotes fun x => g (f x) := by
  simp [Floor.mapTotes, Function.comp_def]

/-- The task's tote after a confirm that returns `back` beside the task's line. -/
def Tote.confirmed (t : Task) (back : List BoundLine) (z : Tote) : Tote :=
  if z.isId t.tote then
    { z with
      comps := z.comps.modify (t.comp - 1) (ToteComp.confirmed t)
      bound := z.bound.filter fun b => !(b.order == t.order && b.lineNo == t.lineNo) && !back.contains b }
  else z

/-- What steps 1 to 4 of a confirm leave. -/
def State.confirmed (s : State) (t : Task) (back : List BoundLine) : State :=
  { s with
    panel := s.panel.endTask t
    floor := s.floor.mapTotes (Tote.confirmed t back)
    lines := returnLines back (s.lines.map (atKey t.order t.lineNo (Line.confirmed t))) }

/-- What steps 1 to 3 leave: what step 4 works on. -/
def State.taken (s : State) (t : Task) : State := ((s.endTask t).confirmComp t).confirmLine t

section
variable (s : State) (t : Task)

theorem State.taken_eq :
    s.taken t =
      { s with
        panel := s.panel.endTask t
        floor := (s.floor.mapTotes fun x =>
            if x.isId t.tote then { x with comps := x.comps.modify (t.comp - 1) (ToteComp.confirmed t) } else x).mapTotes
          fun x =>
            if x.isId t.tote then { x with bound := x.bound.filter fun b => !(b.order == t.order && b.lineNo == t.lineNo) } else x
        lines := s.lines.map (atKey t.order t.lineNo (Line.confirmed t)) } := rfl

theorem State.returnOthers_eq (back : List BoundLine) :
    s.returnOthers t back =
      { s with
        floor := s.floor.mapTotes fun x =>
          if x.isId t.tote then { x with bound := x.bound.filter fun b => !back.contains b } else x
        lines := returnLines back s.lines } := rfl

theorem State.returnOthers_taken (back : List BoundLine) : (s.taken t).returnOthers t back = s.confirmed t back := by
  have floor : (((s.floor.mapTotes fun x =>
        if x.isId t.tote then { x with comps := x.comps.modify (t.comp - 1) (ToteComp.confirmed t) } else x).mapTotes
      fun x =>
        if x.isId t.tote then { x with bound := x.bound.filter fun b => !(b.order == t.order && b.lineNo == t.lineNo) } else x).mapTotes
      fun x => if x.isId t.tote then { x with bound := x.bound.filter fun b => !back.contains b } else x) =
      s.floor.mapTotes (Tote.confirmed t back) := by
    rw [Floor.mapTotes_mapTotes, Floor.mapTotes_mapTotes]
    congr 1
    funext z
    unfold Tote.confirmed
    by_cases own : z.isId t.tote = true
    · have id' : ∀ (cs : List ToteComp) (bs : List BoundLine), Tote.isId { z with comps := cs, bound := bs } t.tote = true :=
        fun _ _ => own
      simp only [own, if_true, List.filter_filter, id', Bool.and_comm]
    · simp only [own, if_false, Bool.false_eq_true]
  rw [State.returnOthers_eq, State.taken_eq, State.confirmed, ← floor]

theorem State.applyConfirm_eq :
    s.applyConfirm t =
      State.taskChoice (State.releaseTest (State.passesIf
        (State.orderCheck ((s.confirmed t ((s.taken t).shortOthers t)).write (t.entry (s.compQty t))) t.order)
        (s.confirmReturns t || !((s.taken t).shortOthers t).isEmpty)) t.port) := by
  rw [← State.returnOthers_taken]
  simp only [State.applyConfirm, State.taken]

end

theorem exec_confirm {s : State} (hs : s.live = true) {t : Task} (ht : s.panel.task = some t) :
    Machine.exec (.confirmKey t.put) s = .next (s.applyConfirm t) := by
  refine (taken_of_live hs (State.confirmKey t.put)).trans (congrArg _ ?_)
  unfold State.confirmKey
  rw [ht]
  exact if_pos rfl

/-! ### The lines a confirm returns -/

section
variable {s : State} {t : Task}

theorem State.shortOthers_full (full : t.isShort = false) : s.shortOthers t = [] := by
  unfold State.shortOthers
  exact if_neg (by simp [full])

/-- A change of records that leaves those of the entry's key finds the same line for it. -/
theorem find_isBound_map (ls : List Line) (b : BoundLine) (g : Line → Line) (key : ∀ l, (g l).key = l.key)
    (miss : ∀ l, l.key = b.key → g l = l) : (ls.map g).find? (·.isBound b) = ls.find? (·.isBound b) := by
  have bound : (fun y : Line => y.isBound b) ∘ g = fun y => y.isBound b := by
    funext y
    rw [Function.comp_apply, Bool.eq_iff_iff, Line.isBound_iff, Line.isBound_iff, key]
  rw [List.find?_map, bound]
  cases hy : ls.find? (·.isBound b) with
  | none => rfl
  | some y =>
      have here : y.isBound b = true := by simpa using List.find?_some hy
      rw [Option.map_some, miss y ((y.isBound_iff b).1 here)]

/-- A line of another key is found as before. -/
theorem State.taken_lineOf {b : BoundLine} (other : (b.order == t.order && b.lineNo == t.lineNo) = false) :
    (s.taken t).lineOf b = s.lineOf b := by
  refine find_isBound_map s.lines b (atKey t.order t.lineNo (Line.confirmed t)) (fun y => ?_) fun y hy => atKey_miss _ fun key => ?_
  · unfold atKey
    split <;> rfl
  · obtain ⟨order, lineNo⟩ := Prod.mk.inj (hy.symm.trans key)
    simp [order, lineNo] at other

/-- A short returns the RESERVED lines of the compartment beside the task's own (R134). -/
theorem State.shortOthers_taken (short : t.isShort = true) {x : Tote} (hx : s.floor.allTotes.find? (·.isId t.tote) = some x) :
    (s.taken t).shortOthers t = x.bound.filter fun b =>
      !(b.order == t.order && b.lineNo == t.lineNo) && b.comp == t.comp && s.boundIn .reserved b := by
  have id' : (fun y : Tote => y.isId t.tote) ∘ Tote.confirmed t [] = fun y => y.isId t.tote := by
    funext y
    rw [Function.comp_apply, Tote.confirmed]
    split <;> rfl
  have own : x.isId t.tote = true := by simpa using List.find?_some hx
  have floor : (s.taken t).floor.allTotes = s.floor.allTotes.map (Tote.confirmed t []) := by
    have same := congrArg State.floor (s.returnOthers_taken t [])
    have whole : (((s.taken t).returnOthers t []).floor) = (s.taken t).floor := by
      refine Floor.mapTotes_of_fixed fun y _ => ?_
      have all : y.bound.filter (fun b => !([] : List BoundLine).contains b) = y.bound := List.filter_eq_self.2 fun _ _ => rfl
      dsimp only
      rw [all, ite_self]
    rw [← whole, same]
    exact Floor.mapTotes_allTotes _ _
  have found : ((s.taken t).floor.allTotes.find? (·.isId t.tote)).map (·.bound) =
      some (x.bound.filter fun b => !(b.order == t.order && b.lineNo == t.lineNo)) := by
    rw [floor, List.find?_map, id', hx, Option.map_some, Option.map_some, Tote.confirmed, if_pos own]
    exact congrArg some (List.filter_congr fun b _ => Bool.and_true _)
  unfold State.shortOthers
  rw [if_pos short, found, Option.getD_some, List.filter_filter]
  refine List.filter_congr fun b _ => ?_
  cases other : b.order == t.order && b.lineNo == t.lineNo with
  | true => simp
  | false =>
      rw [State.boundIn, State.taken_lineOf other, ← State.boundIn]
      simp

theorem State.confirmReturns_eq {l : Line} (found : s.taskLine t = some l) :
    s.confirmReturns t = (l.afterConfirm t.display == .waiting) := by
  rw [State.confirmReturns, found, Option.any_some]

theorem State.compQty_eq {x : Tote} {k : ToteComp} (hx : s.floor.allTotes.find? (·.isId t.tote) = some x)
    (hk : x.comps[t.comp - 1]? = some k) : s.compQty t = k.qty := by
  rw [State.compQty, hx, Option.bind_some, hk]
  rfl

/-- A change of the task's line in a map is known from what it does to that one record. -/
theorem map_atKey {l : Line} (only : ∀ y ∈ s.lines, y.hasKey t.order t.lineNo = true → y = l) {f g : Line → Line} (same : f l = g l) :
    s.lines.map (atKey t.order t.lineNo f) = s.lines.map (atKey t.order t.lineNo g) := congrArg State.lines (State.updLine_congr only same)

end

/-! ### A release test that finds nothing (R110) -/

theorem State.releaseTest_stays {s : State} {p : Nat} {x : Tote} (hp : s.floor.presentedTote p = some x) (named : x.id.isNone = false)
    (unspent : x.spent = false) (staying : s.mode ≠ .closingHard) (lines : x.bound ≠ []) : s.releaseTest p = s := by
  have none : s.releaseCause x false = none := by
    rw [State.releaseCause, named, unspent, beq_eq_false_iff_ne.2 staying]
    simp
  unfold State.releaseTest
  rw [hp]
  dsimp only
  rw [none]
  split
  · rfl
  · exact if_neg (by simpa using lines)

theorem State.orderCheck_absent {s : State} {o : OrderId} (h : ∀ l ∈ s.lines, l.order ≠ o) : s.orderCheck o = s := by
  have none : s.orderLines o = [] := List.filter_eq_nil_iff.2 fun l hl => by simpa using h l hl
  unfold State.orderCheck
  rw [none]

theorem LineState.final_iff (st : LineState) : st.final = true ↔ st = .done ∨ st = .cancelled := by
  cases st <;> simp [LineState.final]

end Sys2Proof.Machine

open Sys2Proof Sys2Proof.Machine

/-- Settles O38: a full pick is the confirm with nothing returned beside the task's line. -/
theorem fullPickApplied : Obligations.FullPickApplied := by
  refine ⟨?_, fun s o => ⟨fun ⟨l, hl, ho, done, cancelled⟩ => ?_, State.orderCheck_absent, fun l ls order final => ?_⟩⟩
  · intro s t l hs ht full single hl order lineNo state picked
    have key : l.hasKey t.order t.lineNo = true := by simp [Line.hasKey, order, lineNo]
    have only := Task.key_only single
    have found := State.taskLine_eq hl key only
    have notShort : t.isShort = false := by simp [Task.isShort, full]
    have after : (s.confirmed t []).write (t.entry (s.compQty t)) = picked := by
      have totes : Tote.confirmed t [] = fun z =>
          if z.isId t.tote then
            { z with
              comps := z.comps.modify (t.comp - 1) fun k => { k with qty := k.qty - t.display }
              bound := z.bound.filter fun b => !(b.order == t.order && b.lineNo == t.lineNo) }
          else z := by
        have comp : ToteComp.confirmed t = fun k => { k with qty := k.qty - t.display } := funext fun k => by
          simp [ToteComp.confirmed, notShort]
        funext z
        simp [Tote.confirmed, comp]
      have lines : returnLines [] (s.lines.map (atKey t.order t.lineNo (Line.confirmed t))) =
          s.lines.map (atKey t.order t.lineNo fun y =>
            { y with picked := y.picked + t.display, state := state, binding := none, cancelPending := false }) := by
        refine (map_fixed fun _ _ => rfl).trans (map_atKey only ?_)
        simp only [Line.confirmed, notShort, Bool.or_false]
        rfl
      have entry : t.entry (s.compQty t) = .pick t.order t.lineNo t.tote t.display t.comp t.put := by
        simp [Task.entry, notShort]
      rw [State.confirmed, totes, lines, entry]
      rfl
    have confirm : exec (.confirmKey t.put) s =
        .next (State.taskChoice (State.releaseTest (State.passesIf (picked.orderCheck t.order) (state == .waiting)) t.port)) := by
      rw [exec_confirm hs ht, State.applyConfirm_eq, State.shortOthers_full notShort, after, State.confirmReturns_eq found]
      simp only [List.isEmpty_nil, Bool.not_true, Bool.or_false]
      rfl
    refine ⟨fun x notPending whole more hp hx unspent staying others => ?_, fun ended => ?_, fun waits => ?_⟩
    · have done : state = .done := (if_neg (by simp [notPending])).trans (if_pos whole)
      obtain ⟨y, hy, hyo, hyn, notDone, notCancelled⟩ := more
      have stays : picked.orderCheck t.order = picked := by
        refine State.orderCheck_open (l := y) (State.mem_orderLines.2 ⟨List.mem_map.2 ⟨y, hy, ?_⟩, hyo⟩) ?_
        · exact if_neg (by simp [hyn])
        · rw [← Bool.not_eq_true, LineState.final_iff]
          exact fun h => h.elim notDone notCancelled
      have kept : picked.releaseTest t.port = picked := by
        have shown : picked.floor.presentedTote t.port = some
            { x with
              comps := x.comps.modify (t.comp - 1) fun k => { k with qty := k.qty - t.display }
              bound := x.bound.filter fun b => !(b.order == t.order && b.lineNo == t.lineNo) } := by
          refine (Floor.mapTotes_presentedTote _ _ _).trans ?_
          rw [hp, Option.map_some, if_pos (by simp [Tote.isId, hx])]
        refine State.releaseTest_stays shown (by simp [hx]) unspent staying ?_
        obtain ⟨b, hb, other⟩ := others
        exact List.ne_nil_of_mem (List.mem_filter.2 ⟨hb, by simpa [imp_iff_not_or] using other⟩)
      rw [confirm, stays, done]
      exact congrArg (fun u => Host.Outcome.next (State.taskChoice u)) kept
    · rw [confirm, beq_eq_false_iff_ne.2 ended]
      rfl
    · rw [confirm, waits]
      rfl
  · refine State.orderCheck_open (State.mem_orderLines.2 ⟨hl, ho⟩) ?_
    rw [← Bool.not_eq_true, LineState.final_iff]
    exact fun h => h.elim done cancelled
  · rw [State.orderCheck_complete order fun y hy => (LineState.final_iff _).2 (final y hy), List.countP_eq_length_filter,
      List.countP_eq_length_filter, List.countP_eq_length_filter]

/-- Settles O39: a short confirm returns the other RESERVED lines of the compartment beside the task's line. -/
theorem shortApplied : Obligations.ShortApplied := by
  intro s t x l k hs ht less hl order lineNo single hx hk back state shorted
  have key : l.hasKey t.order t.lineNo = true := by simp [Line.hasKey, order, lineNo]
  have only := Task.key_only single
  have found := State.taskLine_eq hl key only
  have short : t.isShort = true := by simp [Task.isShort, less]
  have others : (s.taken t).shortOthers t = back := State.shortOthers_taken short hx
  have linesEq : s.lines.map (atKey t.order t.lineNo (Line.confirmed t)) =
      s.lines.map (atKey t.order t.lineNo fun y =>
        { y with picked := y.picked + t.display, short := true, state := state, binding := none, cancelPending := false }) := by
    refine map_atKey only ?_
    simp only [Line.confirmed, short, Bool.or_true]
    rfl
  have after : (s.confirmed t back).write (t.entry (s.compQty t)) = shorted := by
    have totes : Tote.confirmed t back = fun z =>
        if z.isId t.tote then
          { z with
            comps := z.comps.modify (t.comp - 1) fun y => { y with qty := 0, emptied := true }
            bound := z.bound.filter fun b => !(b.order == t.order && b.lineNo == t.lineNo) && !back.contains b }
        else z := by
      have comp : ToteComp.confirmed t = fun k => { k with qty := 0, emptied := true } := funext fun k => by
        simp [ToteComp.confirmed, short]
      funext z
      rw [Tote.confirmed, comp]
    have entry : t.entry (s.compQty t) =
        .short t.order t.lineNo t.tote t.display (t.units - t.display) t.comp t.put (decide (t.units < k.qty)) := by
      rw [Task.entry, if_pos short, State.compQty_eq hx hk]
    rw [State.confirmed, totes, linesEq, entry]
    rfl
  have confirm : exec (.confirmKey t.put) s =
      .next (State.taskChoice (State.releaseTest
        (State.passesIf (shorted.orderCheck t.order) (state == .waiting || !back.isEmpty)) t.port)) := by
    rw [exec_confirm hs ht, State.applyConfirm_eq, others, after, State.confirmReturns_eq found]
    rfl
  have passes : state = .waiting ∨ back ≠ [] → (state == .waiting || !back.isEmpty) = true := fun h => by
    rcases h with h | h
    · simp [h]
    · simp [h]
  refine ⟨fun notPending part => ?_, fun returns => ?_, fun ended none => ?_⟩
  · have waits : state = .waiting := (if_neg (by simp [notPending])).trans (if_neg part)
    have stays : shorted.orderCheck t.order = shorted := by
      have here : returned back (atKey t.order t.lineNo (fun y =>
          { y with picked := y.picked + t.display, short := true, state := state, binding := none, cancelPending := false }) l) ∈
          shorted.lines := List.mem_map_of_mem (List.mem_map_of_mem hl)
      rw [atKey_hit _ key] at here
      refine State.orderCheck_open (State.mem_orderLines.2 ⟨here, ?_⟩) ?_
      · unfold returned
        split <;> exact order
      · unfold returned
        split
        · rfl
        · exact congrArg LineState.final waits
    rw [confirm, passes (.inl waits), stays]
    rfl
  · rw [confirm, passes returns]
    rfl
  · rw [confirm, none, beq_eq_false_iff_ne.2 ended]
    rfl
end

section
/-! SUPPORT. What an allocation pass leaves on its tote and its port (R42 to R57, R109 to R113, R153). -/

namespace Sys2Proof.Machine

/-! ### Bound lines in due order (R24, R56) -/

/-- The entries `a` and `b` stand in due order. -/
def State.InDueOrder (s : State) (a b : BoundLine) : Prop := ∀ x y, s.lineOf a = some x → s.lineOf b = some y → x.dueLe y

theorem State.insertBound_sorted {s : State} {x : BoundLine} (hx : (s.lineOf x).isSome = true) {bs : List BoundLine}
    (known : ∀ b ∈ bs, (s.lineOf b).isSome = true) (h : bs.Pairwise s.InDueOrder) : (s.insertBound x bs).Pairwise s.InDueOrder := by
  obtain ⟨l, hl⟩ := Option.isSome_iff_exists.1 hx
  induction bs with
  | nil => exact List.pairwise_singleton _ _
  | cons y ys ih =>
      obtain ⟨first, rest⟩ := List.pairwise_cons.1 h
      obtain ⟨m, hm⟩ := Option.isSome_iff_exists.1 (known y List.mem_cons_self)
      have before : s.boundBefore x y = dueBefore l m := by rw [State.boundBefore, hl, hm]
      unfold State.insertBound
      rw [before]
      split
      · rename_i early
        have le : s.InDueOrder x y := fun a b ha hb => by
          cases hl.symm.trans ha
          cases hm.symm.trans hb
          exact Line.dueLe_of_before early
        refine List.pairwise_cons.2 ⟨fun z hz => ?_, h⟩
        rcases List.mem_cons.1 hz with rfl | hz
        · exact le
        · exact fun a b ha hb => Line.dueLe_trans (le a m ha hm) (first z hz m b hm hb)
      · rename_i late
        refine List.pairwise_cons.2 ⟨fun z hz => ?_, ih (fun b hb => known b (List.mem_cons_of_mem _ hb)) rest⟩
        rcases List.mem_cons.1 ((s.insertBound_perm x ys).subset hz) with rfl | hz
        · intro a b ha hb
          cases hm.symm.trans ha
          cases hl.symm.trans hb
          exact Line.dueLe_of_not_before late
        · exact first z hz

theorem State.mergeBound_sorted {s : State} (new old : List BoundLine) (known : ∀ b ∈ new ++ old, (s.lineOf b).isSome = true)
    (h : old.Pairwise s.InDueOrder) : (s.mergeBound new old).Pairwise s.InDueOrder := by
  unfold State.mergeBound
  induction new generalizing old with
  | nil => exact h
  | cons x xs ih =>
      have oldKnown : ∀ b ∈ old, (s.lineOf b).isSome = true := fun b hb => known b (List.mem_append_right _ hb)
      refine ih (s.insertBound x old) (fun b hb => ?_) (State.insertBound_sorted (known x (by simp)) oldKnown h)
      rcases List.mem_append.1 hb with hb | hb
      · exact known b (by simp [hb])
      · rcases List.mem_cons.1 ((s.insertBound_perm x old).subset hb) with rfl | hb
        · exact known _ (by simp)
        · exact oldKnown b hb

/-! ### A port on its way out -/

/-- The states of a port whose tote a release test has sent off. -/
def PortState.off (st : PortState) : Prop := st = .releaseWait ∨ st = .releasing ∨ st = .vacant ∨ st = .inbound

/-- Port `p` has sent off its tote. -/
def Floor.SentOff (fl : Floor) (p : Nat) : Prop := ∃ q, fl.port p = some q ∧ q.state.off

theorem Floor.SentOff.updPort {fl : Floor} {p : Nat} (h : fl.SentOff p) (n : Nat) (f : Port → Port) (num : ∀ q, (f q).num = q.num)
    (state : ∀ q, (f q).state.off) : (fl.updPort n f).SentOff p := by
  obtain ⟨q, hq, hs⟩ := h
  refine ⟨_, by rw [Floor.updPort_port _ _ _ _ num, hq, Option.map_some], ?_⟩
  split
  · exact state q
  · exact hs

theorem Floor.SentOff.routeHead {fl : Floor} {p : Nat} (h : fl.SentOff p) (d : Nat) : (fl.routeHead d).SentOff p := by
  unfold Floor.routeHead
  split
  · rename_i t rest q _ _
    exact Floor.SentOff.updPort (fl := { fl with lane := rest }) h q.num
      (fun x => { x with state := .inbound, tote := some t, seatTimer := some d, routerStrokes := x.routerStrokes + 1 }) (fun _ => rfl)
      fun _ => .inr (.inr (.inr rfl))
  · exact h

theorem Floor.SentOff.routeUpTo {p : Nat} (k d : Nat) {fl : Floor} (h : fl.SentOff p) : (fl.routeUpTo k d).SentOff p := by
  induction k generalizing fl with
  | zero => exact h
  | succ k ih => exact ih (h.routeHead d)

theorem Floor.SentOff.grantHead {s : State} {p : Nat} (h : s.floor.SentOff p) : s.grantHead.floor.SentOff p := by
  have vacated : ∀ (fl : Floor) n, fl.SentOff p → (fl.updPort n Port.vacate).SentOff p := fun fl n h =>
    h.updPort n Port.vacate (fun _ => rfl) fun _ => .inr (.inr (.inl rfl))
  unfold State.grantHead
  split
  · exact h
  · rename_i n rest _
    have waiting : ({ s.floor with releaseWait := rest } : Floor).SentOff p := h
    split
    · unfold State.grantTo
      split
      · exact waiting
      · rename_i q _
        split
        · exact waiting.updPort n (fun x => { x with state := .releasing, releaseStrokes := x.releaseStrokes + 1 }) (fun _ => rfl)
            fun _ => .inr (.inl rfl)
        · unfold State.removeAtGrant
          split
          · exact vacated _ _ waiting
          · refine Floor.SentOff.routeUpTo _ _ ?_
            rw [State.completionTest_floor]
            exact vacated _ _ waiting
    · exact h

theorem Floor.SentOff.grantUpTo {p : Nat} (n : Nat) {s : State} (h : s.floor.SentOff p) : (s.grantUpTo n).floor.SentOff p := by
  induction n generalizing s with
  | zero => exact h
  | succ n ih => exact ih h.grantHead

/-- A tote sent to RELEASE_WAIT leaves its port to RELEASE_WAIT or what follows it (R111, R113). -/
theorem State.toReleaseWait_sentOff {s : State} {p : Nat} {x : Tote} (hp : s.floor.presentedTote p = some x) (c : ReleaseCause) :
    (s.toReleaseWait p x c).floor.SentOff p := by
  obtain ⟨q, hq, -, -⟩ := FloorForm.presented_port hp
  rw [State.toReleaseWait_eq]
  exact Floor.SentOff.grantUpTo _ ⟨Port.waited c q, Floor.updPort_port_self hq (Port.waited c) fun _ => rfl, .inl rfl⟩

/-! ### A pass on a named tote (R57, R110) -/

section
variable {s : State} {p : Nat} {x : Tote} {t : ToteId}

/-- The tote with the lines of its pass on its list. -/
def State.withPass (s : State) (x : Tote) : Tote := { x with bound := s.mergeBound (s.benchForm x).listed x.bound }

theorem State.bindPass_presented (hp : s.floor.presentedTote p = some x) (ht : x.id = some t) :
    (s.bindPass p x).floor.presentedTote p = some (s.withPass x) := by
  obtain ⟨q, hq, hs, hx⟩ := FloorForm.presented_port hp
  rw [TableForm.bindPass_named ht]
  change ((s.floor.updPort p _).port p).bind _ = _
  rw [Floor.updPort_port_self hq (TableForm.joined s _) fun _ => rfl, Option.bind_some, if_pos (by simp [TableForm.joined, hs]),
    TableForm.joined, hx]
  rfl

theorem State.allocationPass_eq (hp : s.floor.presentedTote p = some x) :
    s.allocationPass p =
      if (s.benchForm x).listed.isEmpty then (s.bindPass p x).testAfterPass p else ((s.bindPass p x).testAfterPass p).taskChoice := by
  unfold State.allocationPass
  rw [hp]

/-- The test after a pass stops at a tote that keeps lines, and inside the entry of a hard close. -/
theorem State.testAfterPass_stays {u : State} {y : Tote} (hp : u.floor.presentedTote p = some y)
    (stays : u.testsWait = true ∨ u.releaseCause y true = none) : u.testAfterPass p = u := by
  unfold State.testAfterPass
  rw [hp]
  dsimp only
  rcases stays with wait | none
  · rw [wait, Bool.true_or, if_pos rfl]
  · rw [none, ite_self]

theorem State.testAfterPass_leaves {u : State} {y : Tote} (hp : u.floor.presentedTote p = some y) (wait : u.testsWait = false)
    (dark : u.litOn y = false) {c : ReleaseCause} (cause : u.releaseCause y true = some c) :
    u.testAfterPass p = u.toReleaseWait p y c := by
  unfold State.testAfterPass
  rw [hp]
  dsimp only
  rw [wait, dark, cause]
  rfl

/-- Of a named tote, unspent and not in CLOSING_HARD, the test after a pass asks for lines alone (R110). -/
theorem State.releaseCause_lines {u : State} {y : Tote} (ht : y.id = some t) (unspent : y.spent = false)
    (staying : u.mode ≠ .closingHard) : u.releaseCause y true = if y.bound.isEmpty then some .noLines else none := by
  rw [State.releaseCause, ht, unspent, beq_eq_false_iff_ne.2 staying]
  simp

theorem State.taskChoice_closing {u : State} (closing : u.mode = .closingHard) : u.taskChoice = u :=
  if_neg (by simp [State.startsPermitted, closing])

end

/-- The bench-form computation of a tote with a class (R44, R50). -/
theorem State.benchForm_class {s : State} {x : Tote} {cls : TempClass} (hc : x.cls = some cls) :
    s.benchForm x = s.compute cls (x.comps.map (·.sku)) x.available
      (if cls = .ambient then none
       else some ((x.exposure.getD 0 : Nat) -
         (s.cfg.tLine * x.bound.length + s.cfg.tUnit * (x.bound.map (·.units)).sum : Nat) : Int)) := by
  unfold State.benchForm State.benchBudget
  rw [hc]
  cases cls <;> rfl

end Sys2Proof.Machine

open Sys2Proof Sys2Proof.Machine

/-- Settles O29: the pass binds, the test after it looks at the list it leaves, and the task choice follows lines bound. -/
theorem allocationPassBinds : Obligations.AllocationPassBinds := by
  refine ⟨?_, fun s x => ⟨fun none => ?_, fun cls hc => State.benchForm_class hc⟩, fun s new old => ⟨s.mergeBound_perm new old, ?_⟩⟩
  · intro s p x t hp ht a bound
    have pass : s.bindPass p x = bound := TableForm.bindPass_named ht p
    have shown : bound.floor.presentedTote p = some (s.withPass x) := pass ▸ State.bindPass_presented hp ht
    have cause : x.spent = false → s.mode ≠ .closingHard →
        bound.releaseCause (s.withPass x) true = if (s.withPass x).bound.isEmpty then some .noLines else none := fun unspent staying =>
      State.releaseCause_lines (t := t) ht unspent staying
    rw [State.allocationPass_eq hp, pass]
    refine ⟨fun unspent staying listed => ?_, fun unspent staying none empty => ?_, fun entry closing => ?_⟩
    · have kept : (s.withPass x).bound ≠ [] := fun e => by
        have perm := s.mergeBound_perm a.listed x.bound
        rw [show s.mergeBound a.listed x.bound = [] from e, List.nil_perm, List.append_eq_nil_iff] at perm
        exact listed perm.1
      rw [State.testAfterPass_stays shown (.inr ((cause unspent staying).trans (if_neg (by simpa using kept)))),
        if_neg (by simpa using listed)]
    · have bare : (s.withPass x).bound = [] := by
        rw [State.withPass, empty, show (s.benchForm x).listed = [] from none]
        rfl
      have dark : bound.litOn (s.withPass x) = false := by rw [State.litOn, bare, List.any_nil]
      have wait : bound.testsWait = false := by
        rw [State.testsWait, show bound.mode = s.mode from rfl, beq_eq_false_iff_ne.2 staying, Bool.and_false]
      rw [if_pos (by rw [none]; rfl),
        State.testAfterPass_leaves shown wait dark ((cause unspent staying).trans (if_pos (by rw [bare]; rfl)))]
      exact State.toReleaseWait_sentOff shown _
    · have wait : bound.testsWait = true := by
        rw [State.testsWait, show bound.closeEntry = true from entry, show bound.mode = .closingHard from closing]
        rfl
      rw [State.testAfterPass_stays shown (.inl wait), State.taskChoice_closing (show bound.mode = .closingHard from closing), ite_self]
  · unfold State.benchForm
    rw [none]
  · exact fun known sorted => State.mergeBound_sorted new old known sorted
end

section
/-! SUPPORT. The second tick: what it counts, the totes it spends, and the entries it writes (R25, R95, R96, R131). -/

namespace Sys2Proof.Machine

/-! ### What a tick counts -/

theorem Tote.countDown_eq (x : Tote) :
    x.countDown = if x.cls = some .chilled ∨ x.cls = some .frozen then { x with exposure := x.exposure.map (· - 1) } else x := by
  have cold : x.cls.any TempClass.cold = true ↔ x.cls = some .chilled ∨ x.cls = some .frozen := by
    cases x.cls with
    | none => simp
    | some c => cases c <;> simp [TempClass.cold]
  unfold Tote.countDown
  simp only [cold]

theorem PutLight.tick_eq (l : PutLight) :
    l.tick = match l with
      | .lit => .lit
      | .off => .off
      | .flashing n => if 2 ≤ n + 1 then .off else .flashing (n + 1) := by
  cases l <;> rfl

/-- The bench with the tick's second counted, before the exposures it spends (R95, R131). -/
def State.ticked (s : State) : State :=
  { s.nextSecond with floor := s.floor.mapTotes Tote.countDown, panel := s.panel.tick }

theorem exec_secondTick {s : State} (hs : s.live = true) : Machine.exec .secondTick s = .next s.ticked.spendAll := by
  have held : s.resetHeld = false := by
    rw [State.live, Bool.and_eq_true, Bool.not_eq_true'] at hs
    exact hs.2
  have live : s.nextSecond.live = true := hs
  refine congrArg Host.Outcome.next ((if_neg (by simp [held])).trans ?_)
  exact if_pos live

/-! ### The totes a tick spends (R95, R96) -/

/-- Held, named and at 0, the event not yet taken. -/
def State.due (s : State) : List Tote := s.floor.heldTotes.filter fun x => x.id.isSome && x.spent && !x.spentTaken

theorem State.dueSpent_eq (s : State) : s.dueSpent = s.due.map fun x => (x.id.getD 0, x) := by
  unfold State.dueSpent State.due
  induction s.floor.heldTotes with
  | nil => rfl
  | cons x xs ih =>
      rw [List.filterMap_cons, List.filter_cons, ih]
      cases ht : x.id with
      | none => simp
      | some t => cases h : x.spent && !x.spentTaken <;> simp [h, ht]

theorem State.spendAll_none {s : State} (none : s.due = []) : s.spendAll = s := by
  have due : s.dueSpent = [] := by rw [State.dueSpent_eq, none, List.map_nil]
  unfold State.spendAll
  rw [due]
  rfl

/-- One tote spent takes its exposure-spent event. -/
theorem State.spendAll_one {s : State} {x : Tote} {t : ToteId} (one : s.due = [x]) (ht : x.id = some t) :
    s.spendAll = s.spendTote t x := by
  have due : s.dueSpent = [(t, x)] := by rw [State.dueSpent_eq, one, List.map_singleton, ht, Option.getD_some]
  unfold State.spendAll State.spendTote
  rw [due]
  cases back : (s.spentLines x).isEmpty <;> simp [back, State.passesIf]

theorem State.spendIfDue_due {s : State} {x : Tote} {t : ToteId} (found : s.floor.heldTotes.find? (·.isId t) = some x)
    (due : x ∈ s.due) : s.spendIfDue t = s.spendTote t x := by
  have cond := (List.mem_filter.1 due).2
  rw [Bool.and_assoc, Bool.and_eq_true] at cond
  unfold State.spendIfDue
  rw [found]
  exact if_pos cond.2

/-! ### The entries it writes -/

theorem Journal.write_entries (j : Journal) (now : Nat) {b : EntryBody} (business : b.isNote = false) :
    (j.write now b).entries = j.entries ++ [j.entryAt now b] := by
  unfold Journal.write
  rw [business]
  rfl

theorem Journal.write_grows (j : Journal) (now : Nat) (b : EntryBody) : j.entries <+: (j.write now b).entries := by
  unfold Journal.write
  dsimp only
  split
  · exact List.prefix_refl _
  · exact List.prefix_append _ _

theorem KeepsFloor.journalGrows (es : List Entry) : KeepsFloor fun s => es <+: s.journal.entries where
  lines _ h := h
  puts _ h := h
  lanes _ h := h
  floor _ _ h := h
  panel _ _ h := h
  write _ h := h.trans (Journal.write_grows _ _ _)
  faults _ h := h
  enqueue _ h := h
  closed _ _ h := h

/-- Lines returned leave the state of a line of another key as it is. -/
theorem State.boundIn_returned {s u : State} {back : List BoundLine} (lines : u.lines = returnLines back s.lines) {b : BoundLine}
    (other : b.key ∉ boundKeys back) (st : LineState) : u.boundIn st b = s.boundIn st b := by
  have found : u.lineOf b = s.lineOf b := by
    rw [State.lineOf, lines, returnLines_eq]
    refine find_isBound_map s.lines b (returned back) (fun l => ?_) fun l hl => if_neg ?_
    · unfold returned
      split <;> rfl
    · rw [any_isBound_iff, hl]
      exact other
  rw [State.boundIn, found, State.boundIn]

/-- Steps 1 and 2 of R96 write one EXPOSURE_SPENT for each tote, with the RESERVED lines it had at the tick. -/
theorem State.spendRecords_entries (s : State) (xs : List Tote) (u : State) (once : (xs.flatMap fun x => boundKeys x.bound).Nodup)
    (same : ∀ x ∈ xs, ∀ b ∈ x.bound, u.boundIn .reserved b = s.boundIn .reserved b) :
    ∃ es : List Entry,
      (xs.foldl (fun y x => y.spendRecord (x.id.getD 0) x) u).journal.entries = u.journal.entries ++ es ∧
        es.map (·.body) = xs.map fun x => .exposureSpent (x.id.getD 0) (x.bound.filter (s.boundIn .reserved)).length := by
  induction xs generalizing u with
  | nil => exact ⟨[], (List.append_nil _).symm, rfl⟩
  | cons x xs ih =>
      rw [List.flatMap_cons] at once
      obtain ⟨-, rest, apart⟩ := List.nodup_append.1 once
      have back : u.spentLines x = x.bound.filter (s.boundIn .reserved) :=
        List.filter_congr fun b hb => same x List.mem_cons_self b hb
      have later : ∀ y ∈ xs, ∀ b ∈ y.bound, (u.spendRecord (x.id.getD 0) x).boundIn .reserved b = s.boundIn .reserved b :=
        fun y hy b hb => by
          rw [State.boundIn_returned (s := u) (back := u.spentLines x) rfl, same y (List.mem_cons_of_mem _ hy) b hb]
          intro hk
          obtain ⟨c, hc, e⟩ := List.mem_map.1 hk
          exact apart b.key (e ▸ mem_boundKeys (List.mem_of_mem_filter hc)) b.key
            (List.mem_flatMap.2 ⟨y, hy, mem_boundKeys hb⟩) rfl
      obtain ⟨es, entries, bodies⟩ := ih (u.spendRecord (x.id.getD 0) x) rest later
      have first : (u.spendRecord (x.id.getD 0) x).journal.entries =
          u.journal.entries ++ [u.journal.entryAt u.now (.exposureSpent (x.id.getD 0) (u.spentLines x).length)] :=
        Journal.write_entries u.journal u.now rfl
      refine ⟨u.journal.entryAt u.now (.exposureSpent (x.id.getD 0) (u.spentLines x).length) :: es, ?_, ?_⟩
      · rw [List.foldl_cons, entries, first, List.append_assoc, List.singleton_append]
      · rw [List.map_cons, bodies, List.map_cons, ← back]
        rfl

/-- The entries of the totes that a tick spends stand before any that its releases and passes write (log 16). -/
theorem State.spendAll_entries (s : State) (once : (s.due.flatMap fun x => boundKeys x.bound).Nodup) :
    (s.due.map fun x => EntryBody.exposureSpent (x.id.getD 0) (x.bound.filter (s.boundIn .reserved)).length) <+:
      (s.spendAll.journal.entries.drop s.journal.entries.length).map (·.body) := by
  obtain ⟨es, entries, bodies⟩ := s.spendRecords_entries s.due s once fun _ _ _ _ => rfl
  have grows := KeepsFloor.journalGrows (s.journal.entries ++ es)
  have all : s.journal.entries ++ es <+: s.spendAll.journal.entries := by
    unfold State.spendAll
    dsimp only
    refine KeepsFloor.foldl (P := fun u => s.journal.entries ++ es <+: u.journal.entries) _ (fun _ h => grows.allPasses h) _
      (KeepsFloor.foldl (P := fun u => s.journal.entries ++ es <+: u.journal.entries) _ (fun {u} d h => ?_) _ ?_)
    · unfold State.spendRelease
      split
      · exact grows.releaseTest _ h
      · exact h
    · rw [State.dueSpent_eq, List.foldl_map, ← entries]
  obtain ⟨more, whole⟩ := all
  rw [← whole, List.append_assoc, List.drop_left, List.map_append, bodies]
  exact List.prefix_append _ _

theorem State.spendAll_ms (s : State) : s.spendAll.ms = s.ms := KeepsAll.spendAll (Keeps.msIs s.ms) rfl

end Sys2Proof.Machine

open Sys2Proof Sys2Proof.Machine

/-- Settles O40: a tick counts (`State.ticked`), then takes the exposure-spent events of the totes it spends. -/
theorem secondTick : Obligations.SecondTick := by
  refine ⟨?_, fun s t hs ht => ?_⟩
  · intro s hs ticked due
    have counted : s.ticked = ticked := by
      have totes : Tote.countDown = fun x =>
          if x.cls = some .chilled ∨ x.cls = some .frozen then { x with exposure := x.exposure.map (· - 1) } else x :=
        funext Tote.countDown_eq
      have lights : (fun y : PutPanel => { y with light := y.light.tick }) = fun y =>
          { y with light := match y.light with
              | .lit => .lit
              | .off => .off
              | .flashing n => if 2 ≤ n + 1 then .off else .flashing (n + 1) } :=
        funext fun y => congrArg (fun l => { y with light := l }) y.light.tick_eq
      rw [State.ticked, totes, Panel.tick, lights]
      rfl
    have tick : exec .secondTick s = .next ticked.spendAll := counted ▸ exec_secondTick hs
    refine ⟨fun none => ?_, fun x t one ht found => ?_, fun once => ⟨_, tick, ticked.spendAll_entries once⟩⟩
    · have idle : ticked.due = [] := by
        refine List.filter_eq_nil_iff.2 fun x hx => ?_
        rw [← counted] at hx
        change x ∈ (s.floor.mapTotes Tote.countDown).heldTotes at hx
        rw [Floor.mapTotes_heldTotes] at hx
        obtain ⟨y, hy, rfl⟩ := List.mem_map.1 hx
        have taken : y.countDown.spentTaken = y.spentTaken := by
          unfold Tote.countDown
          split <;> rfl
        rcases none y hy with h | h
        · simp [h]
        · simp [taken, h]
      rw [tick, State.spendAll_none idle]
    · have event : exec (.exposureSpent t) ticked = .next (ticked.spendIfDue t) :=
        taken_of_live (show ticked.live = true from hs) fun u => u.spendIfDue t
      have mem : x ∈ ticked.due := by
        rw [show ticked.due = [x] from one]
        exact List.mem_singleton_self x
      rw [tick, event, State.spendAll_one one ht, State.spendIfDue_due found mem]
  · cases (exec_secondTick hs).symm.trans ht
    have ms : s.ticked.spendAll.ms = (s.ms / 1000 + 1) * 1000 := s.ticked.spendAll_ms
    simp only [State.minute, State.now, ms]
    omega
end

section
/-! SUPPORT. The order of keys (R55), an allocation over its candidates (R45, R49 to R53), the conditions and the budget of a bid-form
computation (R46, R48, R49); and their statements. -/

open Sys2Proof Sys2Proof.Machine

namespace Sys2Proof.Machine

/-! ### Keys (R55) -/

theorem Key.beats_iff (a b : Key) :
    a.beats b = true ↔ b.score < a.score ∨ a.score = b.score ∧ (a.dist < b.dist ∨ a.dist = b.dist ∧ a.addr < b.addr) := by
  simp [Key.beats]

/-! ### Candidates (R45) -/

/-- The first compartment of a SKU, counted from 1 (R44). -/
theorem firstComp_some {skus : List Sku} {k : Sku} {c : Nat} (h : firstComp skus k = some c) :
    1 ≤ c ∧ skus[c - 1]? = some k ∧ ∀ j, j < c - 1 → skus[j]? ≠ some k := by
  obtain ⟨i, hi, rfl⟩ := Option.map_eq_some_iff.1 h
  obtain ⟨inside, holds, before⟩ := List.findIdx?_eq_some_iff_getElem.1 hi
  rw [Nat.add_sub_cancel]
  refine ⟨Nat.le_add_left 1 i, ?_, fun j hj found => ?_⟩
  · rw [List.getElem?_eq_getElem inside, beq_iff_eq.1 holds]
  · obtain ⟨_, eq⟩ := List.getElem?_eq_some_iff.1 found
    exact before j hj (beq_iff_eq.2 eq)

theorem firstComp_isSome (skus : List Sku) (k : Sku) : (firstComp skus k).isSome = skus.contains k := by
  rw [firstComp, Option.isSome_map, List.findIdx?_isSome, List.contains_eq_any_beq]
  simp only [BEq.comm]

/-- The candidates' lines: those of the class in due order whose SKU the tote holds (R45). -/
theorem State.candidates_lines (s : State) (cls : TempClass) (skus : List Sku) :
    (s.candidates cls skus).map (·.1) =
      (sortDue (s.lines.filter fun l => l.state == .waiting && l.cls == cls)).filter fun l => skus.contains l.sku := by
  have held (l : Line) : ((firstComp skus l.sku).map fun c => (l, c)).map (·.1) = if skus.contains l.sku then some l else none := by
    rw [← firstComp_isSome]
    cases firstComp skus l.sku <;> rfl
  rw [State.candidates, List.map_filterMap, funext held]
  exact congrFun (List.filterMap_eq_filter (p := fun l : Line => skus.contains l.sku)) _

theorem State.candidates_perm (s : State) (cls : TempClass) (skus : List Sku) :
    ((s.candidates cls skus).map (·.1)).Perm
      (s.lines.filter fun l => l.state == .waiting && l.cls == cls && skus.contains l.sku) := by
  have both : (s.lines.filter fun l => l.state == .waiting && l.cls == cls && skus.contains l.sku) =
      (s.lines.filter fun l => l.state == .waiting && l.cls == cls).filter fun l => skus.contains l.sku := by
    simp only [List.filter_filter, Bool.and_comm]
  rw [s.candidates_lines, both]
  exact (sortDue_perm _).filter _

theorem State.candidates_sorted (s : State) (cls : TempClass) (skus : List Sku) :
    ((s.candidates cls skus).map (·.1)).Pairwise Line.dueLe := by
  rw [s.candidates_lines]
  exact (sortDue_sorted _).filter _

/-! ### Allocation (R51) -/

/-- The units of a candidate that stand to be taken: the lesser of units outstanding and quantity left (R51 step 1). -/
def Alloc.unitsFor (a : Alloc) (l : Line) (c : Nat) : Nat := min (l.requested - l.picked) (a.avail.getD (c - 1) 0)

/-- The allocation after `m` units of line `l` are taken from compartment `c` (R51 step 4). -/
def Alloc.take (a : Alloc) (r : AllocRule) (l : Line) (c m : Nat) : Alloc :=
  { avail := a.avail.modify (c - 1) (· - m), weight := a.weight + urgency r.minute l.due * m, time := a.time + r.timeOf m
    listed := a.listed ++ [{ order := l.order, lineNo := l.lineNo, comp := c, units := m }] }

section
variable {r : AllocRule} {l : Line} {c : Nat} {rest : List (Line × Nat)} {a : Alloc}

theorem allocate_passes (none : a.unitsFor l c = 0) : allocate r ((l, c) :: rest) a = allocate r rest a := if_pos none

theorem allocate_stops (units : a.unitsFor l c ≠ 0) (stop : r.over a.time (r.timeOf (a.unitsFor l c)) = true) :
    allocate r ((l, c) :: rest) a = a :=
  (if_neg units).trans (if_pos stop)

theorem allocate_takes (units : a.unitsFor l c ≠ 0) (fits : r.over a.time (r.timeOf (a.unitsFor l c)) = false) :
    allocate r ((l, c) :: rest) a = allocate r rest (a.take r l c (a.unitsFor l c)) :=
  (if_neg units).trans (if_neg (ne_true_of_eq_false fits))

end

theorem AllocRule.over_iff (r : AllocRule) (total t : Nat) : r.over total t = true ↔ ∃ b, r.budget = some b ∧ b < total + t := by
  simp [AllocRule.over, Option.any_eq_true]

/-- What each taking keeps, an allocation keeps. -/
theorem allocate_keeps {r : AllocRule} {P : Alloc → Prop} {cs : List (Line × Nat)}
    (take : ∀ a l c m, (l, c) ∈ cs → 1 ≤ m → m ≤ a.avail.getD (c - 1) 0 → r.over a.time (r.timeOf m) = false → P a →
      P (a.take r l c m)) {a : Alloc} (start : P a) : P (allocate r cs a) := by
  induction cs generalizing a with
  | nil => exact start
  | cons x rest ih =>
      obtain ⟨l, c⟩ := x
      have later := @ih fun a l c m mem => take a l c m (List.mem_cons_of_mem _ mem)
      by_cases units : a.unitsFor l c = 0
      · exact (allocate_passes units).symm ▸ later start
      · cases stop : r.over a.time (r.timeOf (a.unitsFor l c)) with
        | true => exact (allocate_stops units stop).symm ▸ start
        | false =>
            refine (allocate_takes units stop).symm ▸ later (take a l c _ List.mem_cons_self ?_ (Nat.min_le_right _ _) stop start)
            exact Nat.one_le_iff_ne_zero.2 units

/-! ### One computation (R49 to R53) -/

/-- The rule of a computation. -/
def State.allocRule (s : State) (budget : Option Int) : AllocRule :=
  { budget := budget, tLine := s.cfg.tLine, tUnit := s.cfg.tUnit, minute := s.minute }

/-- An allocation from which nothing is taken. -/
def Alloc.untouched (avail : List Nat) : Alloc := { avail := avail, weight := 0, time := 0, listed := [] }

section
variable (s : State) (cls : TempClass) (skus : List Sku) (avail : List Nat) (budget : Option Int)

theorem State.compute_spent {b : Int} (spent : b ≤ 0) : s.compute cls skus avail (some b) = .untouched avail :=
  if_pos (by simpa using spent)

theorem State.compute_allocates (left : ∀ b, budget = some b → 1 ≤ b) :
    s.compute cls skus avail budget = allocate (s.allocRule budget) (s.candidates cls skus) (.untouched avail) := by
  refine if_neg ?_
  cases budget with
  | none => simp
  | some b =>
      have := left b rfl
      simp only [Option.any_some, decide_eq_true_eq]
      omega

variable {s cls skus avail budget}

/-- What holds of nothing taken and is kept by each taking holds of a computation. -/
theorem State.compute_keeps {P : Alloc → Prop} (start : P (.untouched avail))
    (take : ∀ a l c m, (l, c) ∈ s.candidates cls skus → 1 ≤ m → m ≤ a.avail.getD (c - 1) 0 →
      (s.allocRule budget).over a.time ((s.allocRule budget).timeOf m) = false → P a → P (a.take (s.allocRule budget) l c m)) :
    P (s.compute cls skus avail budget) := by
  unfold State.compute
  dsimp only
  split
  · exact start
  · exact allocate_keeps take start

/-- R49, R51 step 3. -/
theorem State.compute_within {b : Int} (left : 0 ≤ b) : ((s.compute cls skus avail (some b)).time : Int) ≤ b := by
  refine State.compute_keeps (P := fun a => (a.time : Int) ≤ b) left fun a l c m _ _ _ fits _ => ?_
  rw [← Bool.not_eq_true, AllocRule.over_iff] at fits
  by_contra above
  exact fits ⟨b, rfl, not_le.1 above⟩

/-- R50, R51: the time is that of the listed lines. -/
theorem State.compute_time : (s.compute cls skus avail budget).time =
    boundTime s.cfg.tLine s.cfg.tUnit (s.compute cls skus avail budget).listed := by
  refine State.compute_keeps (P := fun a => a.time = boundTime s.cfg.tLine s.cfg.tUnit a.listed) (by simp [Alloc.untouched, boundTime])
    fun a l c m _ _ _ _ time => ?_
  simp only [Alloc.take, time, boundTime, AllocRule.timeOf, State.allocRule, List.length_append, List.map_append, List.sum_append,
    List.length_singleton, List.map_singleton, List.sum_singleton]
  ring

theorem getD_modify_sub (xs : List Nat) (k m i : Nat) :
    (xs.modify k (· - m)).getD i 0 = if k = i then xs.getD i 0 - m else xs.getD i 0 := by
  rw [List.getD_eq_getElem?_getD, List.getElem?_modify, List.getD_eq_getElem?_getD]
  cases xs[i]? <;> split <;> simp

/-- The units listed on compartment `c`. -/
def unitsOn (c : Nat) (bs : List BoundLine) : Nat := ((bs.filter fun x => x.comp == c).map (·.units)).sum

theorem unitsOn_append_singleton (c : Nat) (bs : List BoundLine) (b : BoundLine) :
    unitsOn c (bs ++ [b]) = unitsOn c bs + if b.comp = c then b.units else 0 := by
  by_cases here : b.comp = c <;> simp [unitsOn, here]

/-- R51: units listed on a compartment and the quantity left make what it held. -/
theorem State.compute_shares (i : Nat) : unitsOn (i + 1) (s.compute cls skus avail budget).listed +
    (s.compute cls skus avail budget).avail.getD i 0 = avail.getD i 0 := by
  refine State.compute_keeps (P := fun a => unitsOn (i + 1) a.listed + a.avail.getD i 0 = avail.getD i 0)
    (by simp [Alloc.untouched, unitsOn]) fun a l c m mem _ enough _ shares => ?_
  obtain ⟨-, -, -, comp⟩ := State.mem_candidates mem
  obtain ⟨counted, -, -⟩ := firstComp_some comp
  rw [← shares]
  simp only [Alloc.take, getD_modify_sub, unitsOn_append_singleton]
  by_cases here : c - 1 = i
  · rw [if_pos here, if_pos (by omega)]
    rw [here] at enough
    omega
  · rw [if_neg here, if_neg (by omega), Nat.add_zero]

theorem urgency_pos (minute : Nat) (due : Int) : 0 < urgency minute due := by
  have := urgency_eq minute due
  omega

/-- R52, R53: every listed line weighs. -/
theorem State.compute_weightless : (s.compute cls skus avail budget).weight = 0 ↔ (s.compute cls skus avail budget).listed = [] := by
  refine State.compute_keeps (P := fun a => a.weight = 0 ↔ a.listed = []) (by simp [Alloc.untouched]) fun a l c m _ units _ _ _ => ?_
  have weighs : 0 < urgency (s.allocRule budget).minute l.due * m := Nat.mul_pos (urgency_pos _ _) units
  simp only [Alloc.take, List.append_eq_nil_iff, List.cons_ne_nil, and_false, iff_false]
  omega

/-- Urgency times units of an entry's line; 0 without a record (R53). -/
def State.weightOf (s : State) (b : BoundLine) : Nat :=
  match s.lineOf b with
  | none => 0
  | some l => urgency s.minute l.due * b.units

theorem State.compute_weight (n : (s.lines.map Line.key).Nodup) :
    (s.compute cls skus avail budget).weight = ((s.compute cls skus avail budget).listed.map s.weightOf).sum := by
  refine State.compute_keeps (P := fun a => a.weight = (a.listed.map s.weightOf).sum) rfl fun a l c m mem _ _ _ weight => ?_
  have record : s.lineOf { order := l.order, lineNo := l.lineNo, comp := c, units := m } = some l :=
    State.lineOf_of_mem n (State.mem_candidates mem).1 ((l.isBound_iff _).2 rfl)
  simp only [Alloc.take, weight, List.map_append, List.sum_append, List.map_singleton, List.sum_singleton, State.weightOf, record]
  rfl

/-- R45, R51: an entry lists 1 or more units that a WAITING line of the class has outstanding. -/
theorem State.compute_listed {b : BoundLine} (hb : b ∈ (s.compute cls skus avail budget).listed) :
    1 ≤ b.units ∧ ∃ l ∈ s.lines, l.order = b.order ∧ l.lineNo = b.lineNo ∧ l.state = .waiting ∧ l.cls = cls ∧
      b.units ≤ l.requested - l.picked := by
  unfold State.compute at hb
  dsimp only at hb
  split at hb
  · cases hb
  · rcases allocate_listed _ _ _ b hb with hb | ⟨x, hx, bound, -, atLeast, units⟩
    · cases hb
    · obtain ⟨mem, waiting, ofClass, -⟩ := State.mem_candidates hx
      obtain ⟨order, lineNo⟩ := Prod.ext_iff.1 ((x.1.isBound_iff b).1 bound)
      exact ⟨atLeast, x.1, mem, order, lineNo, waiting, ofClass, units⟩

end

theorem Alloc.score_eq_zero (a : Alloc) : a.score = 0 ↔ a.weight = 0 := by
  unfold Alloc.score
  omega

/-! ### Eligibility and budget (R46, R48, R49) -/

theorem State.committed_eq (s : State) :
    s.committed = s.floor.lane.length + (s.floor.ports.filter fun y => y.tote.isSome).length + s.contests.length := by
  rw [State.committed, Floor.heldCount_eq, List.countP_eq_length_filter]

theorem State.eligible_iff (s : State) (cls : TempClass) (d : Nat) (late : Bool) :
    s.eligible cls d late = true ↔
      s.tracker.homed = true ∧ s.mode = .opened ∧ s.journal.bound = false ∧ s.cfg.served.has cls = true ∧
        s.committed < s.cfg.places ∧ (late = true ∨ s.cfg.settle ≤ d) := by
  simp [State.eligible, and_assoc]

/-- The budget by class: none for AMBIENT, and else exposure less travel and backlog (R49). -/
theorem State.bidBudget_eq (s : State) (q : BidQuery) :
    s.bidBudget q = if q.cls = .ambient then none else some ((q.exposure : Int) - s.travel q.dist - s.backlog) := by
  unfold State.bidBudget
  cases q.cls <;> rfl

end Sys2Proof.Machine

/-- Settles O23: `Key.beats` is the lexicographic order of the three parts. -/
theorem keyOrder : Obligations.KeyOrder := by
  refine ⟨Key.beats_iff, fun a => ?_, fun a b c ab bc => ?_, fun a b distinct => ?_⟩
  · rw [← Bool.not_eq_true, Key.beats_iff]
    omega
  · rw [Key.beats_iff] at *
    omega
  · rw [Key.beats_iff, Key.beats_iff]
    omega

/-- Settles O25: a computation is nothing taken, or takings one by one, and each part is kept by one taking. -/
theorem allocationWithinBudget : Obligations.AllocationWithinBudget := by
  refine ⟨fun s cls skus avail budget => ?_, fun s cls skus => ?_, fun r l c rest a => ?_⟩
  · refine ⟨fun b hb spent => ?_, fun b hb left => ?_, State.compute_time, State.compute_shares, fun x hx => State.compute_listed hx,
      (Alloc.score_eq_zero _).trans State.compute_weightless, s.compute_allocates cls skus avail budget, fun n => ?_⟩
    · rw [hb, s.compute_spent cls skus avail spent]
      exact ⟨rfl, rfl⟩
    · subst hb
      exact State.compute_within (by omega)
    · have weight := State.compute_weight (cls := cls) (skus := skus) (avail := avail) (budget := budget) n
      exact ⟨congrArg (min · 65535) weight, weight ▸ decide_eq_true_iff⟩
  · refine ⟨s.candidates_perm cls skus, s.candidates_sorted cls skus, fun x hx => ?_⟩
    obtain ⟨-, -, -, comp⟩ := State.mem_candidates hx
    exact firstComp_some comp
  · refine ⟨rfl, allocate_passes, fun b units budget above => ?_, fun units fits => ?_⟩
    · exact allocate_stops (Nat.one_le_iff_ne_zero.1 units) ((r.over_iff _ _).2 ⟨b, budget, above⟩)
    · refine allocate_takes (Nat.one_le_iff_ne_zero.1 units) ?_
      rw [← Bool.not_eq_true, AllocRule.over_iff]
      exact fun ⟨b, budget, above⟩ => absurd (fits b budget) (not_le.2 above)

/-- Settles O26: the conditions are the conjuncts of `State.eligible`, and the budget is `State.bidBudget` by class. -/
theorem eligibilityConditions : Obligations.EligibilityConditions := by
  intro s q
  refine ⟨?_, fun no => ?_, fun yes => ?_⟩
  · rw [State.eligible_iff, State.committed_eq]
  · rw [State.bidForm, no]
    exact ⟨rfl, rfl⟩
  · rw [State.bidForm, yes, State.bidBudget_eq]
    rfl
end

section
/-! SUPPORT. What the ending of a contest leaves (R62, R81, R83), what withdrawing a record's frames takes off the transmit queue
(R62, R177), and the statement on both. -/

open Sys2Proof Sys2Proof.Machine

namespace Sys2Proof.Machine

/-! ### The frames of a record (R62 step 1) -/

theorem isContestFrame_iff (t : ToteId) (f : Frame) :
    isContestFrame t f = true ↔ f.payload = .bid t ∨ f.payload = .take t true ∨ f.payload = .take t false := by
  unfold isContestFrame
  cases f.payload with
  | bid u => simp [eq_comm (a := t)]
  | take u late => cases late <;> simp [eq_comm (a := t)]
  | offer => simp
  | landed => simp
  | reply => simp
  | quiet => simp
  | journal => simp

/-- What an ending of the record of `t` leaves of a queued frame. -/
def TxEntry.afterEnd (t : ToteId) (e : TxEntry) : Option TxEntry :=
  if isContestFrame t e.frame then if e.inCarriage then some { e with ownerEnded := true } else none else some e

theorem withdrawFrames_eq (t : ToteId) (q : List TxEntry) : withdrawFrames t q = q.filterMap (TxEntry.afterEnd t) := by
  rw [withdrawFrames, ← List.filterMap_eq_map, ← List.filterMap_eq_filter, List.filterMap_filterMap]
  refine List.filterMap_congr fun e _ => ?_
  cases own : isContestFrame t e.frame <;> cases carried : e.inCarriage <;> simp [TxEntry.afterEnd, own, carried]

theorem withdrawFrames_length_le (t : ToteId) (q : List TxEntry) : (withdrawFrames t q).length ≤ q.length := by
  rw [withdrawFrames_eq]
  exact List.length_filterMap_le _ _

/-! ### Queueing a frame (R181) -/

theorem State.queueFrame_room {s : State} (room : s.queue.length < Config.queueCapacity) (f : Frame) :
    s.queueFrame f = { s with queue := insertTx { frame := f, inCarriage := false, ownerEnded := false } s.queue } := by
  simp only [State.queueFrame, enqueue, if_pos room]

@[simp] theorem State.queueFrame_contests (s : State) (f : Frame) : (s.queueFrame f).contests = s.contests :=
  (KeepsFloor.contestsAre s.contests).queueFrame f rfl

@[simp] theorem State.queueFrame_mode (s : State) (f : Frame) : (s.queueFrame f).mode = s.mode := by
  unfold State.queueFrame
  split <;> rfl

/-! ### The steps of an ending (R62, R81, R83) -/

theorem ContestState.takeCarried_iff (st : ContestState) :
    st.takeCarried = true ↔ st = .awaitingSlot ∨ st = .lastChance ∨ st = .diverting := by
  cases st <;> simp [ContestState.takeCarried]

theorem claimEndDue_iff (st : ContestState) (o : ContestOutcome) :
    claimEndDue st o = true ↔
      (st = .awaitingSlot ∨ st = .lastChance ∨ st = .diverting) ∧ (o = .yielded ∨ o = .lapsed ∨ o = .relinquished) := by
  simp [claimEndDue, ContestState.takeCarried_iff, or_assoc]

theorem exposureField_eq (cls : TempClass) (e : Nat) : exposureField (some cls) e = if cls = .ambient then 0 else e / 4 := by
  cases cls <;> rfl

/-- Steps 1 to 3 of an ending: frames withdrawn, lines returned, CLAIM_END where it is due. -/
def State.freed (s : State) (c : Contest) (o : ContestOutcome) : State :=
  { s with
    queue := withdrawFrames c.tote s.queue
    lines := returnLines c.bound s.lines
    journal := if claimEndDue c.state o then s.journal.write s.now (.claimEnd c.tote o c.key.score) else s.journal }

/-- The steps up to the removal of the record, with the relinquish OFFER of a claim given back. -/
def State.ended (s : State) (c : Contest) (o : ContestOutcome) (slot : Nat) : State :=
  { (if o = .relinquished then (s.freed c o).reoffer c slot else s.freed c o) with
    contests := s.contests.filter fun x => x.tote != c.tote }

section
variable (s : State) (c : Contest) (o : ContestOutcome) (slot : Nat)

theorem State.reoffer_contests : (s.reoffer c slot).contests = s.contests := State.queueFrame_contests _ _

theorem State.endContest_eq : s.endContest c o slot = ((s.ended c o slot).passesIf (!c.bound.isEmpty)).completionTest := by
  have logged : (if claimEndDue c.state o then
        State.write { s with queue := withdrawFrames c.tote s.queue, lines := returnLines c.bound s.lines } (.claimEnd c.tote o c.key.score)
      else { s with queue := withdrawFrames c.tote s.queue, lines := returnLines c.bound s.lines }) = s.freed c o := by
    unfold State.freed
    split <;> rfl
  unfold State.endContest State.endSteps State.ended
  dsimp only
  rw [logged]
  by_cases given : o = .relinquished
  · simp only [given, beq_self_eq_true, if_true, State.reoffer_contests]
    rfl
  · simp only [given, beq_iff_eq, if_false]
    rfl

theorem State.ended_floor : (s.ended c o slot).floor = s.floor := by
  unfold State.ended
  split
  · exact State.reoffer_floor _ _ _
  · rfl

theorem State.ended_mode : (s.ended c o slot).mode = s.mode := by
  unfold State.ended
  split
  · exact State.queueFrame_mode _ _
  · rfl

variable {s c o slot}

theorem State.ended_kept (kept : o ≠ .relinquished) :
    s.ended c o slot = { s.freed c o with contests := s.contests.filter fun x => x.tote != c.tote } := by
  rw [State.ended, if_neg kept]

end

theorem State.completionTest_idle {s : State} (idle : s.mode.closing = false) : s.completionTest = s :=
  if_neg (by simp [State.closeComplete, idle])

/-- With no tote presented and no close pending nothing follows an ending. -/
theorem State.endContest_quiet {s : State} (alone : s.floor.presentation = []) (idle : s.mode.closing = false) (c : Contest)
    (o : ContestOutcome) (slot : Nat) : s.endContest c o slot = s.ended c o slot := by
  have noPass (b : Bool) : (s.ended c o slot).passesIf b = s.ended c o slot := by
    rw [State.passesIf, State.allPasses, s.ended_floor, alone, List.foldl_nil, ite_self]
  rw [State.endContest_eq, noPass, State.completionTest_idle (by rw [s.ended_mode, idle])]

/-- A claim given back, with room in the transmit queue: holder absent and OFFER queued (R65, R81). -/
theorem State.ended_relinquished {s : State} {c : Contest} (slot : Nat) (room : s.queue.length < Config.queueCapacity) :
    let u := s.freed c .relinquished
    let offer := u.plainFrame 1 62
      (.offer c.tote slot .relinquish c.cls c.comps (exposureField (some c.cls) (exposureAfter c.exposure c.heard s.now)))
    s.ended c .relinquished slot =
      { u with
        roster := s.roster.map fun r => if r.tote == c.tote then { r with holder := none } else r
        queue := insertTx { frame := offer, inCarriage := false, ownerEnded := false } (withdrawFrames c.tote s.queue)
        contests := s.contests.filter fun x => x.tote != c.tote } := by
  intro u offer
  have fits : (withdrawFrames c.tote s.queue).length < Config.queueCapacity := (withdrawFrames_length_le _ _).trans_lt room
  rw [State.ended, if_pos rfl, State.reoffer, State.queueToAll, State.queueFrame_room fits]
  rfl

end Sys2Proof.Machine

/-- Settles O20: the steps are `State.ended`, with `withdrawFrames` a filter entry by entry, and passes and completion test follow it. -/
theorem contestEndingSteps : Obligations.ContestEndingSteps := by
  refine ⟨fun s c o slot _ kept alone idle => ?_, fun s c slot room carried alone idle => ?_, fun s c o slot _ => ?_, fun t q => ?_⟩
  · have due : claimEndDue c.state o = true ↔
        (c.state = .awaitingSlot ∨ c.state = .lastChance ∨ c.state = .diverting) ∧ (o = .yielded ∨ o = .lapsed) := by
      simp [claimEndDue_iff, kept]
    rw [State.endContest_quiet alone idle, State.ended_kept kept, State.freed, if_congr due rfl rfl]
    rfl
  · have due : claimEndDue c.state .relinquished = true := (claimEndDue_iff _ _).2 ⟨carried, .inr (.inr rfl)⟩
    rw [State.endContest_quiet alone idle, State.ended_relinquished slot room]
    refine ⟨rfl, if_pos due, fun r hr same => ?_, _, (mem_insertTx _ _ _).2 (.inl rfl), rfl, ?_⟩
    · obtain ⟨x, -, rfl⟩ := List.mem_map.1 hr
      by_cases own : x.tote == c.tote
      · rw [if_pos own]
      · rw [if_neg own] at same
        exact absurd (beq_iff_eq.2 same) own
    · rw [exposureField_eq]
      rfl
  · intro claimed freed offered ended
    have steps : s.ended c o slot = ended := by
      simp only [ended, offered, freed, claimed, ← exposureField_eq, ← claimEndDue_iff]
      rfl
    rw [State.endContest_eq, steps]
    refine ⟨fun empty => ?_, fun bound => ?_⟩
    · rw [empty]
      rfl
    · rw [List.isEmpty_eq_false_iff.2 bound]
      rfl
  · rw [withdrawFrames_eq]
    refine List.filterMap_congr fun e _ => ?_
    simp only [TxEntry.afterEnd, isContestFrame_iff]
end

section
/-! SUPPORT. What an OFFER does (R63, R64, R66, R67, R179): the roster it refreshes, the bench's own record for its tote, and the
statement. -/

open Sys2Proof Sys2Proof.Machine

namespace Sys2Proof.Machine

/-! ### Roster (R63, R64) -/

section
variable {r : List RosterEntry} {e : RosterEntry}

theorem refreshRoster_known (known : ∃ x ∈ r, x.tote = e.tote) :
    refreshRoster r e = (r.filter fun x => x.tote != e.tote) ++ [e] :=
  if_pos (by simpa using known)

theorem refreshRoster_new (new : ∀ x ∈ r, x.tote ≠ e.tote) :
    refreshRoster r e = if r.length < Config.rosterCapacity then r ++ [e] else discardOldest r ++ [e] :=
  if_neg (by simpa using new)

theorem refreshRoster_full (new : ∀ x ∈ r, x.tote ≠ e.tote) (full : 48 ≤ r.length) : refreshRoster r e = discardOldest r ++ [e] :=
  (refreshRoster_new new).trans (if_neg (not_lt.2 full))

end

theorem findIdx?_holder_none {r : List RosterEntry} (held : ∀ x ∈ r, x.holder ≠ none) : r.findIdx? (·.holder.isNone) = none :=
  List.findIdx?_eq_none_iff.2 fun x hx => Option.isNone_eq_false_iff.2 (Option.isSome_iff_ne_none.2 (held x hx))

theorem discardOldest_held {r : List RosterEntry} (held : ∀ x ∈ r, x.holder ≠ none) : discardOldest r = r.drop 1 := by
  rw [discardOldest, findIdx?_holder_none held]

/-- The oldest entry without a holder goes, with only held ones before it. -/
theorem discardOldest_free {before after : List RosterEntry} {d : RosterEntry} (free : d.holder = none)
    (held : ∀ x ∈ before, x.holder ≠ none) : discardOldest (before ++ d :: after) = before ++ after := by
  have place : (before ++ d :: after).findIdx? (·.holder.isNone) = some before.length := by
    rw [List.findIdx?_append, findIdx?_holder_none held, List.findIdx?_cons, free]
    simp
  rw [discardOldest, place]
  exact (List.eraseIdx_append_of_length_le le_rfl _).trans (by simp)

/-! ### An OFFER heard (R66, R67, R179) -/

theorem offerExposure_eq (cls : TempClass) (field : Nat) : offerExposure cls field = if cls = .ambient then 0 else 4 * field := by
  cases cls <;> rfl

section
variable {s : State} {o : OfferFrame}

theorem State.takeOffer_beyond (beyond : s.cfg.loopLength ≤ o.slot) : s.takeOffer o = s.recordFrameFault .frameForm (offerBody o) :=
  if_pos (by simp [beyond])

theorem State.takeOffer_good (inside : o.slot < s.cfg.loopLength)
    (comps : o.comps.length = 1 ∨ o.comps.length = 2 ∨ o.comps.length = 4) :
    s.takeOffer o = State.handleOffer { s with roster := refreshRoster s.roster (s.offerEntry o) } o := by
  have coded : compCode o.comps.length ≠ 3 := by
    rcases comps with h | h | h <;> rw [h] <;> decide
  exact if_neg (by simp [not_le.2 inside, coded])

theorem State.handleOffer_stored (stored : s.toteStands o.tote = true) : s.handleOffer o = s := if_pos stored

section
variable (new : s.toteStands o.tote = false)
include new

theorem State.handleOffer_unrecorded (none : s.contestOf o.tote = none) : s.handleOffer o = s.scoreOffer o := by
  simp only [State.handleOffer, new, none, Bool.false_eq_true, if_false]

variable {c : Contest} (record : s.contestOf o.tote = some c)
include record

theorem State.handleOffer_diverting (diverting : c.state = .diverting) : s.handleOffer o = s := by
  simp only [State.handleOffer, new, record, diverting, Bool.false_eq_true, if_false]

/-- A CLAIMED record by the sender of the OFFER and its cause. -/
theorem State.handleOffer_claimed (claimed : c.state = .awaitingSlot ∨ c.state = .lastChance) :
    s.handleOffer o =
      if o.cause = .relinquish ∧ o.src ≠ s.cfg.address then s else (s.endContest c .lapsed c.slot).scoreOffer o := by
  rcases claimed with h | h <;>
    simp only [State.handleOffer, new, record, h, Bool.false_eq_true, if_false, Bool.and_eq_true, beq_iff_eq, bne_iff_ne]

theorem State.handleOffer_open (running : c.state = .bidQueued ∨ c.state = .bidSent ∨ c.state = .won) :
    s.handleOffer o = (s.endContest c .lost c.slot).scoreOffer o := by
  rcases running with h | h | h <;> simp only [State.handleOffer, new, record, h, Bool.false_eq_true, if_false]

end

end

end Sys2Proof.Machine

/-- Settles O15: an OFFER by its form, by the bench's own record for its tote, and the roster by what it holds. -/
theorem offerTaken : Obligations.OfferTaken := by
  refine ⟨fun s o hs => ?_, fun r e => ⟨refreshRoster_known, fun new => ⟨fun room => ?_, fun full held => ?_, ?_⟩⟩⟩
  · intro exposure heard scored
    have offer : exec (.offer o) s = .next (s.clearReceived.takeOffer o) := taken_of_live hs _
    have score (u : State) : scored u = u.scoreOffer o := by
      simp only [scored, exposure, ← offerExposure_eq]
      rfl
    refine ⟨fun beyond => ?_, fun inside comps => ?_⟩
    · rw [offer, State.takeOffer_beyond (s := s.clearReceived) beyond]
      rfl
    · have handled : exec (.offer o) s = .next (heard.handleOffer o) := by
        rw [offer, State.takeOffer_good (s := s.clearReceived) inside comps]
        simp only [heard, exposure, ← offerExposure_eq]
        rfl
      rw [handled]
      refine ⟨fun stored => ?_, fun new none => ?_, fun c new record => ⟨fun diverting => ?_, fun claimed cause other => ?_,
        fun claimed cause => ?_, fun running => ?_⟩⟩
      · rw [State.handleOffer_stored (s := heard) stored]
      · rw [State.handleOffer_unrecorded (s := heard) new none, score]
      · rw [State.handleOffer_diverting (s := heard) new record diverting]
      · rw [State.handleOffer_claimed (s := heard) new record claimed, if_pos ⟨cause, other⟩]
      · have fresh : ¬(o.cause = .relinquish ∧ o.src ≠ heard.cfg.address) := fun ⟨h, k⟩ => cause.elim (· h) k
        rw [State.handleOffer_claimed (s := heard) new record claimed, if_neg fresh, score]
      · rw [State.handleOffer_open (s := heard) new record running, score]
  · exact (refreshRoster_new new).trans (if_pos room)
  · rw [refreshRoster_full new full, discardOldest_held held]
  · rintro before d after rfl full free held
    rw [refreshRoster_full new full, discardOldest_free free held]
end

section
/-! SUPPORT. What a BID, a TAKE, a LANDED and an EXIT heard do to the bench's own record (R65, R69, R73, R80, R84); and their
statements. -/

open Sys2Proof Sys2Proof.Machine

namespace Sys2Proof.Machine

@[simp] theorem State.holdBy_contestOf (s : State) (k : Key) (t u : ToteId) : (s.holdBy k t).contestOf u = s.contestOf u := rfl

section
variable {s : State} {k : Key} {t : ToteId}

theorem State.takeBid_own (own : k.addr = s.cfg.address) : s.takeBid k t = s := if_pos (beq_iff_eq.2 own)

theorem State.takeTake_own (own : k.addr = s.cfg.address) : s.takeTake k t = s.holdBy k t := if_pos (beq_iff_eq.2 own)

section
variable (other : k.addr ≠ s.cfg.address)
include other

theorem State.takeBid_unrecorded (none : s.contestOf t = none) : s.takeBid k t = s := by
  simp only [State.takeBid, beq_eq_false_iff_ne.2 other, none, Bool.false_eq_true, if_false]

theorem State.takeTake_unrecorded (none : s.contestOf t = none) : s.takeTake k t = s.holdBy k t := by
  simp only [State.takeTake, beq_eq_false_iff_ne.2 other, State.holdBy_contestOf, none, Bool.false_eq_true, if_false]

variable {c : Contest} (record : s.contestOf t = some c)
include record

/-! ### A BID of another station on the own record (R69) -/

theorem State.takeBid_queued (queued : c.state = .bidQueued) :
    let best := betterKey c.bestOther k
    let heard := s.updContest t fun x => { x with bestOther := some best }
    s.takeBid k t =
      if k.beats c.key = true then heard.endContest { c with bestOther := some best } .withdrawn c.slot else heard := by
  simp only [State.takeBid, beq_eq_false_iff_ne.2 other, record, queued, Bool.false_eq_true, if_false]

theorem State.takeBid_sent (sent : c.state = .bidSent) :
    s.takeBid k t = s.updContest t fun x => { x with bestOther := some (betterKey c.bestOther k) } := by
  simp only [State.takeBid, beq_eq_false_iff_ne.2 other, record, sent, Bool.false_eq_true, if_false]

theorem State.takeBid_decided (unqueued : c.state ≠ .bidQueued) (unsent : c.state ≠ .bidSent) : s.takeBid k t = s := by
  cases h : c.state with
  | bidQueued => exact absurd h unqueued
  | bidSent => exact absurd h unsent
  | won | awaitingSlot | lastChance | diverting =>
      simp only [State.takeBid, beq_eq_false_iff_ne.2 other, record, h, Bool.false_eq_true, if_false]

/-! ### A TAKE of another station on the own record (R73) -/

theorem State.takeTake_open (bidding : c.state = .bidQueued ∨ c.state = .bidSent) :
    s.takeTake k t = (s.holdBy k t).endContest c .lost c.slot := by
  rcases bidding with h | h <;>
    simp only [State.takeTake, beq_eq_false_iff_ne.2 other, State.holdBy_contestOf, record, h, Bool.false_eq_true, if_false]

theorem State.takeTake_claiming (claiming : c.state = .won ∨ c.state = .awaitingSlot ∨ c.state = .lastChance) :
    s.takeTake k t = if k.beats c.key = true then (s.holdBy k t).endContest c .yielded c.slot else s.holdBy k t := by
  rcases claiming with h | h | h <;>
    simp only [State.takeTake, beq_eq_false_iff_ne.2 other, State.holdBy_contestOf, record, h, Bool.false_eq_true, if_false]

theorem State.takeTake_diverting (diverting : c.state = .diverting) : s.takeTake k t = s.holdBy k t := by
  simp only [State.takeTake, beq_eq_false_iff_ne.2 other, State.holdBy_contestOf, record, diverting, Bool.false_eq_true, if_false]

end

/-! ### A tote landed elsewhere or gone from the loop (R80) -/

theorem State.endGone_unrecorded (none : s.contestOf t = none) : s.endGone t = s := by
  simp only [State.endGone, none]

section
variable {c : Contest} (record : s.contestOf t = some c)
include record

theorem State.endGone_diverting (diverting : c.state = .diverting) : s.endGone t = s := by
  simp only [State.endGone, record, diverting]

theorem State.endGone_open (running : c.state = .bidQueued ∨ c.state = .bidSent ∨ c.state = .won) :
    s.endGone t = s.endContest c .lost c.slot := by
  rcases running with h | h | h <;> simp only [State.endGone, record, h]

theorem State.endGone_claimed (claimed : c.state = .awaitingSlot ∨ c.state = .lastChance) :
    s.endGone t = s.endContest c .lapsed c.slot := by
  rcases claimed with h | h <;> simp only [State.endGone, record, h]

end

theorem State.takeLanded_own (t : ToteId) : s.takeLanded s.cfg.address t = s.forget t := if_pos (beq_self_eq_true _)

theorem State.takeLanded_other {src : Nat} (other : src ≠ s.cfg.address) : s.takeLanded src t = (s.forget t).endGone t :=
  if_neg (by simpa using other)

end

end Sys2Proof.Machine

/-- Settles O16: a BID of another station by the state of the record; the better key is `betterKey`. -/
theorem bidHeard : Obligations.BidHeard := by
  intro s src score dist t hs k r
  have heard : exec (.bid src score dist t) s = .next (r.takeBid k t) := taken_of_live hs _
  rw [heard]
  refine ⟨fun own => ?_, fun other none => ?_, fun c other record => ?_⟩
  · rw [State.takeBid_own (s := r) own]
  · rw [State.takeBid_unrecorded (s := r) other none]
  · intro best
    refine ⟨fun unqueued unsent => ?_, fun undecided => ?_, fun queued beaten => ?_⟩
    · rw [State.takeBid_decided (s := r) other record unqueued unsent]
    · rcases undecided with sent | ⟨queued, unbeaten⟩
      · rw [State.takeBid_sent (s := r) other record sent]
        rfl
      · rw [State.takeBid_queued (s := r) other record queued, if_neg (by simp [unbeaten])]
        rfl
    · rw [State.takeBid_queued (s := r) other record queued, if_pos beaten]
      rfl

/-- Settles O17: the roster holder first (`State.holdBy`), then the record by its state. -/
theorem takeHeard : Obligations.TakeHeard := by
  intro s src score dist t late hs k held
  have heard : exec (.take src score dist t late) s = .next (s.clearReceived.takeTake k t) := taken_of_live hs _
  have holder : s.clearReceived.holdBy k t = held := rfl
  rw [heard]
  refine ⟨fun own => ?_, fun other none => ?_, fun c other record => ⟨fun bidding => ?_, fun claiming beaten => ?_,
    fun claiming unbeaten => ?_, fun diverting => ?_⟩⟩
  · rw [State.takeTake_own (s := s.clearReceived) own, holder]
  · rw [State.takeTake_unrecorded (s := s.clearReceived) other none, holder]
  · rw [State.takeTake_open (s := s.clearReceived) other record bidding, holder]
  · rw [State.takeTake_claiming (s := s.clearReceived) other record claiming, if_pos beaten, holder]
  · rw [State.takeTake_claiming (s := s.clearReceived) other record claiming, if_neg (by simp [unbeaten]), holder]
  · rw [State.takeTake_diverting (s := s.clearReceived) other record diverting, holder]

/-- Settles O18: both forget the tote and end its record by `State.endGone`; the own LANDED ends nothing. -/
theorem landedAndExitHeard : Obligations.LandedAndExitHeard := by
  intro s src t hs gone
  have exited : exec (.exit src t) s = .next (gone.endGone t) := taken_of_live hs _
  have landed : exec (.landed src t) s = .next (s.clearReceived.takeLanded src t) := taken_of_live hs _
  have landedOwn (own : src = s.cfg.address) : exec (.landed src t) s = .next gone := by
    subst own
    exact landed.trans (congrArg _ (State.takeLanded_own (s := s.clearReceived) t))
  have landedOther (other : src ≠ s.cfg.address) : exec (.landed src t) s = .next (gone.endGone t) :=
    landed.trans (congrArg _ (State.takeLanded_other (s := s.clearReceived) other))
  have landedKept (kept : gone.endGone t = gone) : exec (.landed src t) s = .next gone := by
    by_cases own : src = s.cfg.address
    · exact landedOwn own
    · rw [landedOther own, kept]
  refine ⟨landedOwn, fun none => ?_, fun c record => ⟨fun diverting => ?_, fun running => ?_, fun claimed => ?_⟩⟩
  · have kept : gone.endGone t = gone := State.endGone_unrecorded none
    exact ⟨landedKept kept, by rw [exited, kept]⟩
  · have kept : gone.endGone t = gone := State.endGone_diverting record diverting
    exact ⟨landedKept kept, by rw [exited, kept]⟩
  · rw [← State.endGone_open (s := gone) record running]
    exact ⟨exited, landedOther⟩
  · rw [← State.endGone_claimed (s := gone) record claimed]
    exact ⟨exited, landedOther⟩
end

section
/-! SUPPORT. The close of a round (R68, R71), the carriage of the own frames (R70, R72, R177) and the dropped TAKEs tried again (R72); and
their statements. -/

open Sys2Proof Sys2Proof.Machine

namespace Sys2Proof.Machine

theorem State.mayContest_iff (s : State) :
    s.mayContest = true ↔ s.tracker.homed = true ∧ s.mode = .opened ∧ s.journal.bound = false := by
  simp [State.mayContest, and_assoc]

/-! ### Round close (R71) -/

section
variable {s : State} {t : ToteId}

theorem State.expireRound_idle (idle : ∀ c, s.contestOf t = some c → c.roundTimer = none) : s.expireRound t = s := by
  unfold State.expireRound
  split
  · rfl
  · rename_i c record
    exact if_neg (by simp [idle c record])

theorem State.expireRound_running {c : Contest} (record : s.contestOf t = some c) (running : c.roundTimer ≠ none) :
    s.expireRound t = (s.roundOver t).closeRound c := by
  simp only [State.expireRound, record, Option.isSome_iff_ne_none.2 running, if_true]

variable {c : Contest}

theorem State.closeRound_queued (queued : c.state = .bidQueued) : s.closeRound c = s.endContest c .lost c.slot := by
  simp only [State.closeRound, queued]

theorem State.closeRound_won (sent : c.state = .bidSent) (best : beatsOpt c.bestOther c.key = false) (may : s.mayContest = true) :
    s.closeRound c = (s.updContest c.tote fun x => { x with state := .won, roundTimer := none }).queueTake c := by
  simp only [State.closeRound, sent, best, may, Bool.false_eq_true, if_false, if_true]

theorem State.closeRound_lost (sent : c.state = .bidSent) (barred : beatsOpt c.bestOther c.key = true ∨ s.mayContest = false) :
    s.closeRound c = s.endContest c .lost c.slot := by
  rcases barred with beaten | closed
  · simp only [State.closeRound, sent, beaten, if_true]
  · simp only [State.closeRound, sent, closed, Bool.false_eq_true, if_false, ite_self]

end

/-! ### Dropped TAKEs tried again (R72) -/

theorem isTakeFrame_iff (t : ToteId) (f : Frame) :
    isTakeFrame t f = true ↔ f.payload = .take t true ∨ f.payload = .take t false := by
  unfold isTakeFrame
  cases f.payload with
  | take u late => cases late <;> simp [eq_comm (a := t)]
  | bid => simp
  | offer => simp
  | landed => simp
  | reply => simp
  | quiet => simp
  | journal => simp

/-- A TAKE of the record of `t` stands in the queue. -/
def State.takeWaits (s : State) (t : ToteId) : Prop :=
  ∃ f ∈ s.queue, f.ownerEnded = false ∧ (f.frame.payload = .take t true ∨ f.frame.payload = .take t false)

theorem State.takeWaits_iff (s : State) (t : ToteId) :
    s.takeWaits t ↔ s.queue.any (fun e => isTakeFrame t e.frame && !e.ownerEnded) = true := by
  simp only [State.takeWaits, List.any_eq_true, Bool.and_eq_true, Bool.not_eq_true', isTakeFrame_iff, and_comm]

section
variable {s : State} {t : ToteId}

theorem State.requeueTake_kept (kept : s.takeWaits t ∨ ∀ c, s.contestOf t = some c → c.state ≠ .won) : s.requeueTake t = s := by
  unfold State.requeueTake
  split
  · rfl
  · rename_i c record
    refine if_neg ?_
    rcases kept with waits | unwon
    · simp [(s.takeWaits_iff t).1 waits]
    · simp [unwon c record]

theorem State.requeueTake_dropped {c : Contest} (record : s.contestOf t = some c) (won : c.state = .won) (dropped : ¬s.takeWaits t) :
    s.requeueTake t = if s.mayContest = true then s.queueTake c else s.endContest c .lost c.slot := by
  have absent := Bool.not_eq_true _ ▸ (s.takeWaits_iff t).not.1 dropped
  simp only [State.requeueTake, record, won, absent, beq_self_eq_true, Bool.not_false, Bool.and_self, if_true]

end

theorem State.requeueTakes_kept {s : State} (waits : ∀ x ∈ s.contests, x.state = .won → s.takeWaits x.tote) : s.requeueTakes = s := by
  refine List.foldl_fixed' (fun t => State.requeueTake_kept ?_) _
  by_cases w : s.takeWaits t
  · exact .inl w
  · refine .inr fun c record won => w ?_
    obtain ⟨mem, rfl⟩ := State.contestOf_some record
    exact waits c mem won

theorem State.tote_ne_of_contestOf_none {s : State} {t : ToteId} (none : s.contestOf t = none) : ∀ c ∈ s.contests, c.tote ≠ t :=
  fun c hc => by simpa using List.find?_eq_none.1 none c hc

/-- A TAKE tried again brings no record back. -/
theorem State.requeueTakes_gone {s : State} {t : ToteId} (gone : s.contestOf t = none) : s.requeueTakes.contestOf t = none :=
  State.contestOf_none ((Keeps.noContest t).requeueTakes (State.tote_ne_of_contestOf_none gone))

/-! ### The owner of a carried frame (R70, R72, R155) -/

/-- The record of `t` CLAIMED, its listed lines RESERVED (R72). -/
def State.claim (s : State) (t : ToteId) (c : Contest) : State :=
  { s.updContest t Contest.asClaimed with lines := bindLines c.bound .reserved (.contest t) s.lines }

section
variable {s : State} {t : ToteId}

theorem State.ownBidCarried_other (other : ∀ c, s.contestOf t = some c → c.state ≠ .bidQueued) : s.ownBidCarried t = s := by
  unfold State.ownBidCarried
  split
  · rfl
  · rename_i c record
    exact if_neg (by simpa using other c record)

theorem State.ownTakeCarried_other (other : ∀ c, s.contestOf t = some c → c.state ≠ .won) : s.ownTakeCarried t = s := by
  unfold State.ownTakeCarried
  split
  · rfl
  · rename_i c record
    exact if_neg (by simpa using other c record)

variable {c : Contest} (record : s.contestOf t = some c)
include record

theorem State.ownBidCarried_queued (queued : c.state = .bidQueued) :
    s.ownBidCarried t = s.updContest t fun x => { x with state := .bidSent } := by
  simp only [State.ownBidCarried, record, queued, beq_self_eq_true, if_true]

theorem State.ownTakeCarried_claimed (won : c.state = .won) (bound : c.bound ≠ []) (soft : s.mode ≠ .closingHard) :
    s.ownTakeCarried t = s.claim t c := by
  simp only [State.ownTakeCarried, record, won, beq_self_eq_true, if_true, List.isEmpty_eq_false_iff.2 bound,
    beq_eq_false_iff_ne.2 soft, Bool.or_self, Bool.false_eq_true, if_false]
  rfl

theorem State.ownTakeCarried_relinquished (won : c.state = .won) (given : c.bound = [] ∨ s.mode = .closingHard) :
    s.ownTakeCarried t = (s.claim t c).endContest c.asClaimed .relinquished c.slot := by
  have given' : (c.bound.isEmpty || s.mode == .closingHard) = true := by simpa using given
  simp only [State.ownTakeCarried, record, won, beq_self_eq_true, given', if_true]
  rfl

end

/-! ### Carriage (R177, log 26) -/

section
variable {s : State} {e : TxEntry}

theorem State.carriedAs_owned (stands : e.ownerEnded = false) (own : State → State) :
    s.carriedAs e own = (own (s.takeCarriage e)).requeueTakes := by
  simp only [State.carriedAs, stands, Bool.false_eq_true, if_false]

/-- The owner has ended (log 18), or has nothing to do. -/
theorem State.carriedAs_idle {own : State → State} (idle : e.ownerEnded = true ∨ own (s.takeCarriage e) = s.takeCarriage e) :
    s.carriedAs e own = (s.takeCarriage e).requeueTakes := by
  unfold State.carriedAs
  dsimp only
  rcases idle with gone | unmoved
  · rw [if_pos gone]
  · rw [unmoved, ite_self]

theorem State.bidCarried_other (other : ∀ e, s.carried = some e → ∀ t, e.frame.payload ≠ .bid t) : s.bidCarried = s := by
  unfold State.bidCarried
  split
  · rfl
  · rename_i e carried
    split
    · rename_i t bid
      exact absurd bid (other e carried t)
    · rfl

theorem State.takeCarried_other (other : ∀ e, s.carried = some e → ∀ t late, e.frame.payload ≠ .take t late) : s.takeCarried = s := by
  unfold State.takeCarried
  split
  · rfl
  · rename_i e carried
    split
    · rename_i t late take
      exact absurd take (other e carried t late)
    · rfl

theorem State.otherCarried_idle (idle : s.carried = none) : s.otherCarried = s := by
  simp only [State.otherCarried, idle]

variable (carried : s.carried = some e)
include carried

theorem State.bidCarried_bid {t : ToteId} (bid : e.frame.payload = .bid t) :
    s.bidCarried = s.carriedAs e fun x => x.ownBidCarried t := by
  simp only [State.bidCarried, carried, bid]

theorem State.takeCarried_take {t : ToteId} {late : Bool} (take : e.frame.payload = .take t late) :
    s.takeCarried = s.carriedAs e fun x => x.ownTakeCarried t := by
  simp only [State.takeCarried, carried, take]

theorem State.otherCarried_bid {t : ToteId} (bid : e.frame.payload = .bid t) : s.otherCarried = s := by
  simp only [State.otherCarried, carried, bid]

theorem State.otherCarried_take {t : ToteId} {late : Bool} (take : e.frame.payload = .take t late) : s.otherCarried = s := by
  simp only [State.otherCarried, carried, take]

theorem State.otherCarried_plain (noBid : ∀ t, e.frame.payload ≠ .bid t) (noTake : ∀ t late, e.frame.payload ≠ .take t late) :
    s.otherCarried = (s.takeCarriage e).requeueTakes := by
  rw [← State.carriedAs_idle (own := id) (.inr rfl)]
  cases kind : e.frame.payload with
  | bid t => exact absurd kind (noBid t)
  | take t late => exact absurd kind (noTake t late)
  | offer | landed | reply | quiet | journal => simp only [State.otherCarried, carried, kind]

end

end Sys2Proof.Machine

/-- Settles O19: the round closes only where a timer runs (`State.expireRound`), then by `State.closeRound`. -/
theorem roundCloseDecides : Obligations.RoundCloseDecides := by
  intro s t hs may closing
  have closes : exec (.roundClose t) s = .next (s.expireRound t) := taken_of_live hs _
  have open_iff : closing.mayContest = true ↔ may := State.mayContest_iff _
  refine ⟨fun none => ?_, fun c record => ?_⟩
  · rw [closes, State.expireRound_idle (by simp [none])]
  · intro beaten
    have best : beatsOpt c.bestOther c.key = beaten := by
      simp only [beaten, beatsOpt]
      cases c.bestOther <;> rfl
    have tote : c.tote = t := (State.contestOf_some record).2
    have expires (running : c.roundTimer ≠ none) : exec (.roundClose t) s = .next (closing.closeRound c) := by
      rw [closes, State.expireRound_running record running]
      rfl
    refine ⟨fun idle => ?_, fun running sent unbeaten opened => ?_, fun running sent barred => ?_, fun running queued => ?_⟩
    · rw [closes, State.expireRound_idle (by simp [record, idle])]
    · rw [expires running, State.closeRound_won sent (best.trans unbeaten) (open_iff.2 opened), tote, State.queueTake, tote]
      rfl
    · have lost : beatsOpt c.bestOther c.key = true ∨ closing.mayContest = false :=
        barred.imp best.trans fun shut => Bool.eq_false_iff.2 (shut ∘ open_iff.1)
      rw [expires running, State.closeRound_lost sent lost]
    · rw [expires running, State.closeRound_queued queued]

/-- Settles O22: the carried frame leaves, its owner's event is taken by `State.ownBidCarried` or `State.ownTakeCarried`, then every
record is looked at by `State.requeueTake`. -/
theorem framesCarried : Obligations.FramesCarried := by
  refine ⟨fun s e hs carried => ?_, fun s hs idle => ?_, fun s t => ?_⟩
  · intro sent retried
    have bids : exec .bidCarried s = .next s.bidCarried := taken_of_live hs _
    have takes : exec .takeCarried s = .next s.takeCarried := taken_of_live hs _
    have others : exec .frameCarried s = .next s.otherCarried := taken_of_live hs _
    have noBid (h : ∀ t, e.frame.payload ≠ .bid t) : exec .bidCarried s = .next s := by
      rw [bids, State.bidCarried_other (by simpa [carried] using h)]
    have noTake (h : ∀ t late, e.frame.payload ≠ .take t late) : exec .takeCarried s = .next s := by
      rw [takes, State.takeCarried_other (by simpa [carried] using h)]
    refine ⟨fun t bid => ?_, fun t late take => ?_, fun bid take => ?_, fun waits => ?_⟩
    · rw [bids, State.bidCarried_bid carried bid]
      refine ⟨noTake (by simp [bid]), by rw [others, State.otherCarried_bid carried bid], fun gone => ?_, fun other => ?_,
        fun c record stands queued => ?_⟩
      · rw [State.carriedAs_idle (.inl gone)]
        rfl
      · rw [State.carriedAs_idle (.inr (State.ownBidCarried_other (s := s.takeCarriage e) other))]
        rfl
      · rw [State.carriedAs_owned stands, State.ownBidCarried_queued (s := s.takeCarriage e) record queued]
        rfl
    · rw [takes, State.takeCarried_take carried take]
      refine ⟨noBid (by simp [take]), by rw [others, State.otherCarried_take carried take], fun gone => ?_, fun other => ?_,
        fun c record stands won => ?_⟩
      · rw [State.carriedAs_idle (.inl gone)]
        rfl
      · rw [State.carriedAs_idle (.inr (State.ownTakeCarried_other (s := s.takeCarriage e) other))]
        rfl
      · intro claimed
        rw [State.carriedAs_owned stands]
        refine ⟨fun bound soft => ?_, fun given => ?_⟩
        · rw [State.ownTakeCarried_claimed (s := s.takeCarriage e) record won bound soft]
          rfl
        · rw [State.ownTakeCarried_relinquished (s := s.takeCarriage e) record won given]
          refine ⟨rfl, fun u next => ?_⟩
          cases next
          have gone := State.endContest_gone ((s.takeCarriage e).claim t c) c.asClaimed .relinquished c.slot
          rw [show c.asClaimed.tote = t from (State.contestOf_some record).2] at gone
          exact State.requeueTakes_gone gone
    · refine ⟨noBid bid, noTake take, ?_⟩
      rw [others, State.otherCarried_plain carried bid take]
      rfl
    · refine State.requeueTakes_kept (s := sent) fun x hx won => ?_
      obtain ⟨f, hf, still, stands, take⟩ := waits x hx won
      exact ⟨f, List.mem_filter.2 ⟨hf, by simp [still]⟩, stands, take⟩
  · refine ⟨(taken_of_live hs _).trans ?_, (taken_of_live hs _).trans ?_, (taken_of_live hs _).trans ?_⟩
    · rw [State.bidCarried_other (by simp [idle])]
    · rw [State.takeCarried_other (by simp [idle])]
    · rw [State.otherCarried_idle idle]
  · intro waits may
    refine ⟨State.requeueTake_kept, fun c record won dropped => ?_⟩
    rw [State.requeueTake_dropped record won dropped, State.queueTake, (State.contestOf_some record).2]
    exact ⟨fun opened => if_pos ((State.mayContest_iff s).2 opened), fun shut => if_neg (shut ∘ (State.mayContest_iff s).1)⟩
end

section
/-! SUPPORT. A millisecond of the clock with no command waiting (logs 2 to 4): what falls due, taken as the commands that name it; and the
statement. -/

open Sys2Proof Sys2Proof.Machine

namespace Sys2Proof.Machine

/-! ### A bench that takes events goes on taking them -/

/-- No command but a reset, or what holds one, touches the image or the power lines (R187, R188). -/
theorem Keeps.live : Keeps fun s => s.live = true where
  lines _ h := h
  puts _ h := h
  lanes _ h := h
  floor _ _ h := h
  panel _ _ h := h
  write _ h := h
  faults _ h := h
  enqueue _ h := h
  closed _ _ h := h
  contests _ _ h := h
  roster _ _ h := h
  withdraw _ h := h

theorem KeepsAll.live : KeepsAll (fun _ => True) fun s => s.live = true where
  toKeeps := Keeps.live
  enter _ _ _ _ _ _ h := h
  fresh _ _ _ h := h
  landing _ _ _ _ _ _ h := h
  tracker _ _ _ h := h
  clock _ _ _ h := h
  received _ _ _ h := h
  arrival _ _ _ h := h
  act _ _ _ _ h := h
  start _ _ _ _ _ _ h := h
  stop _ _ h := h
  carry _ _ h := h
  fetched _ _ _ h := h
  cleared _ _ _ h := h
  reopen _ _ h := h
  soft _ _ n _ h := Keeps.live.enterSoft (fun _ _ _ h => h) (fun h => h) n h
  hard _ _ n _ h := Keeps.live.enterHard (fun _ _ _ h => h) (fun h => h) n h
  replace _ _ _ _ h := h

/-! ### Commands of one kind, one after another -/

/-- Commands whose meaning on a bench that takes events is `f` are, one after another, `f` taken one after another; the bench goes on
taking events. -/
theorem takeAll_map {α : Type} {cmd : α → Instr} {f : State → α → State} (event : ∀ a, resets (cmd a) = false)
    (meaning : ∀ {s} a, s.live = true → exec (cmd a) s = .next (f s a)) (l : List α) {s : State} (hs : s.live = true) :
    takeAll (l.map cmd) s = l.foldl f s ∧ (l.foldl f s).live = true := by
  induction l generalizing s with
  | nil => exact ⟨rfl, hs⟩
  | cons a l ih =>
      have next := meaning a hs
      have live : (f s a).live = true := KeepsAll.live.exec (cmd a) (event a) (fun _ _ => trivial) next hs
      simp only [List.map_cons, takeAll, next, List.foldl_cons]
      exact ih live

theorem takeAll_singleton {c : Instr} {s u : State} (next : exec c s = .next u) : takeAll [c] s = u := by
  simp only [takeAll, next]

section
variable {s : State} (hs : s.live = true)
include hs

theorem takeAll_roundCloses (ts : List ToteId) :
    takeAll (ts.map .roundClose) s = ts.foldl State.expireRound s ∧ (ts.foldl State.expireRound s).live = true :=
  takeAll_map (cmd := .roundClose) (fun _ => rfl) (fun t h => taken_of_live h fun x => x.expireRound t) ts hs

theorem takeAll_seatTimeouts (ps : List Nat) : takeAll (ps.map .seatTimeout) s = ps.foldl (fun x p => x.seatTimeout p) s :=
  (takeAll_map (cmd := .seatTimeout) (fun _ => rfl) (fun p h => taken_of_live h (State.seatTimeout p)) ps hs).1

end

/-! ### What falls due -/

/-- Where every timer runs on, none has expired. -/
theorem expired_none {α : Type} {timer : α → Option Nat} {xs : List α} {now : Nat}
    (later : ∀ x ∈ xs, ∀ d, timer x = some d → now < d) : (xs.filter fun x => (timer x).any fun d => decide (d ≤ now)) = [] := by
  refine List.filter_eq_nil_iff.2 fun x hx due => ?_
  obtain ⟨d, runs, past⟩ := (Option.any_eq_true _ _).1 due
  exact absurd (later x hx d runs) (not_lt.2 (of_decide_eq_true past))

section
variable {s : State}

theorem State.dueRounds_none (later : ∀ c ∈ s.contests, ∀ d, c.roundTimer = some d → s.ms < d) : s.dueRounds = [] :=
  List.map_eq_nil_iff.2 (expired_none later)

theorem State.dueSeats_none (later : ∀ q ∈ s.floor.ports, ∀ d, q.seatTimer = some d → s.ms < d) : s.dueSeats = [] :=
  List.map_eq_nil_iff.2 (expired_none later)

/-- The round closes and seat timeouts that have fallen due, on a bench whose second, if it has ended, is counted. -/
def State.timersDue (s : State) : State :=
  let closed := s.dueRounds.foldl State.expireRound s
  closed.dueSeats.foldl (fun x p => x.seatTimeout p) closed

theorem State.timersDue_none (rounds : s.dueRounds = []) (seats : s.dueSeats = []) : s.timersDue = s := by
  simp only [State.timersDue, rounds, seats, List.foldl_nil]

theorem State.timersDue_eq_takeAll (hs : s.live = true) :
    let closed := takeAll (s.dueRounds.map .roundClose) s
    s.timersDue = takeAll (closed.dueSeats.map .seatTimeout) closed := by
  obtain ⟨closes, live⟩ := takeAll_roundCloses hs s.dueRounds
  intro closed
  rw [show closed = _ from closes, takeAll_seatTimeouts live]
  rfl

/-! ### The millisecond -/

theorem State.live_iff : s.live = true ↔ s.image ≠ none ∧ s.resetHeld = false := by
  simp [State.live, Option.isSome_iff_ne_none]

theorem State.idle_held (held : s.resetHeld = true) : s.idle = s := if_pos held

theorem State.idle_unconfigured (free : s.resetHeld = false) (none : s.image = none) : s.idle = { s with ms := s.ms + 1 } := by
  have dead : ({ s with ms := s.ms + 1 } : State).live = false := by simp [State.live, none]
  simp only [State.idle, free, whenLive, dead, Bool.false_eq_true, if_false]

/-- The millisecond that ends a second is a SECOND_TICK. -/
theorem State.nextSecond_of_ends (ends : (s.ms + 1) % 1000 = 0) : s.nextSecond = { s with ms := s.ms + 1 } := by
  have clock : (s.ms / 1000 + 1) * 1000 = s.ms + 1 := by omega
  rw [State.nextSecond, clock]

variable (hs : s.live = true)
include hs

theorem State.idle_live : s.idle = State.dueWork { s with ms := s.ms + 1 } := by
  have live : ({ s with ms := s.ms + 1 } : State).live = true := hs
  simp only [State.idle, (State.live_iff.1 hs).2, whenLive, live, Bool.false_eq_true, if_false, if_true]

theorem State.idle_within (within : (s.ms + 1) % 1000 ≠ 0) : s.idle = State.timersDue { s with ms := s.ms + 1 } := by
  rw [State.idle_live hs, State.dueWork]
  simp only [within, if_false]
  rfl

theorem State.idle_ends (ends : (s.ms + 1) % 1000 = 0) : s.idle = s.ticked.spendAll.timersDue := by
  have tick : State.tickWork { s with ms := s.ms + 1 } = s.ticked.spendAll := by
    rw [State.ticked, State.nextSecond_of_ends ends]
    rfl
  rw [State.idle_live hs, State.dueWork]
  simp only [ends, if_true, tick]
  rfl

end

end Sys2Proof.Machine

/-- Settles O2: a held reset stands, an UNCONFIGURED bench counts, and a bench that takes events takes its second tick, if one ends, and
then what its timers bring (`State.timersDue`). -/
theorem emptyQueueStepIsOneMillisecond : Obligations.EmptyQueueStepIsOneMillisecond := by
  intro s waiting
  refine ⟨?_, State.idle_held, State.idle_unconfigured, fun hs within rounds seats => ?_,
    fun hs ends noContest noTote noTimer => ?_, fun hs => ?_, ?_, ?_⟩
  · simp only [step, waiting]
  · rw [State.idle_within hs within]
    exact State.timersDue_none (State.dueRounds_none rounds) (State.dueSeats_none seats)
  · have held : s.ticked.floor.heldTotes = [] := (Floor.mapTotes_heldTotes _ _).trans (by rw [noTote, List.map_nil])
    have unspent : s.ticked.due = [] := by rw [State.due, held, List.filter_nil]
    have unbid : s.ticked.contests = [] := noContest
    have rounds : s.ticked.dueRounds = [] := State.dueRounds_none (by simp [unbid])
    have seats : s.ticked.dueSeats = [] := State.dueSeats_none fun q hq d timer => by
      obtain ⟨p, hp, rfl⟩ := List.mem_map.1 hq
      exact absurd ((noTimer p hp).symm.trans timer) (by simp)
    rw [State.idle_ends hs ends, exec_secondTick hs, State.spendAll_none unspent, State.timersDue_none rounds seats]
  · intro ticked closed
    have second : s.idle = ticked.timersDue ∧ ticked.live = true := by
      by_cases ends : (s.ms + 1) % 1000 = 0
      · have tick : ticked = s.ticked.spendAll := (if_pos ends).trans (takeAll_singleton (exec_secondTick hs))
        rw [tick]
        exact ⟨State.idle_ends hs ends, KeepsAll.spendAll Keeps.live hs⟩
      · have count : ticked = { s with ms := s.ms + 1 } := if_neg ends
        rw [count]
        exact ⟨State.idle_within hs ends, hs⟩
    exact second.1.trans (State.timersDue_eq_takeAll second.2)
  · refine congrArg (List.map Contest.tote) (List.filter_congr fun c _ => ?_)
    cases c.roundTimer <;> rfl
  · refine congrArg (List.map Port.num) (List.filter_congr fun q _ => ?_)
    cases q.seatTimer <;> rfl
end

section
/-! SUPPORT. What the merge event sends and what follows it (R98, R113, R115, R116); and the statement. -/

open Sys2Proof Sys2Proof.Machine

namespace Sys2Proof.Machine

section
variable {s : State}

/-! ### What the head of the release lane sends -/

@[simp] theorem State.queueToAll_mode (s : State) (p : Payload) : (s.queueToAll p).mode = s.mode := s.queueFrame_mode _

/-- The bench with PHASE_UNKNOWN_MERGE recorded for `t` while it is UNHOMED (R116). -/
def State.mergeNoted (s : State) (t : ToteId) : State :=
  if s.tracker.homed then s else s.recordFault .phaseUnknownMerge s.mergeSlot t []

@[simp] theorem State.mergeNoted_fields (s : State) (t : ToteId) :
    (s.mergeNoted t).floor = s.floor ∧ (s.mergeNoted t).mode = s.mode ∧ (s.mergeNoted t).mergeSlot = s.mergeSlot := by
  unfold State.mergeNoted
  split <;> exact ⟨rfl, rfl, rfl⟩

/-- The bench with the release OFFER of a record named `t` queued behind the fault (R98, log 17). -/
def State.mergeOffered (s : State) (t : ToteId) (cls : TempClass) (x : Tote) : State :=
  (s.mergeNoted t).queueToAll
    (.offer t s.mergeSlot .release cls
      (x.comps.map fun y => { sku := y.sku, qty := BitVec.ofNat 8 (if y.emptied then 0 else y.qty) })
      (if cls = .ambient then 0 else x.exposure.getD 0 / 4))

theorem State.mergeOffered_floor (s : State) (t : ToteId) (cls : TempClass) (x : Tote) : (s.mergeOffered t cls x).floor = s.floor := by
  simp [State.mergeOffered]

theorem State.mergeOffered_mode (s : State) (t : ToteId) (cls : TempClass) (x : Tote) : (s.mergeOffered t cls x).mode = s.mode := by
  simp [State.mergeOffered]

/-- A record with tote ID and class sends its OFFER. -/
theorem State.queueRelease_named {x : Tote} {t : ToteId} {cls : TempClass} (named : x.id = some t) (classed : x.cls = some cls) :
    (s.phaseUnknown x).queueRelease x = s.mergeOffered t cls x := by
  have noted : s.phaseUnknown x = s.mergeNoted t := by
    unfold State.phaseUnknown
    rw [named]
    rfl
  unfold State.queueRelease
  simp only [noted, named, classed, State.mergeNoted_fields, exposureField_eq]
  rfl

/-- An orphan sends nothing. -/
theorem State.queueRelease_orphan {x : Tote} (orphan : x.id = none) : (s.phaseUnknown x).queueRelease x = s := by
  have unnoted : s.phaseUnknown x = s := by
    unfold State.phaseUnknown
    rw [orphan]
  unfold State.queueRelease
  rw [unnoted, orphan]

/-! ### The merge -/

theorem State.merge_empty (empty : s.floor.releaseLane = []) : s.merge = s := by
  unfold State.merge
  rw [empty]

section
variable {head : Option Tote} {rest : List (Option Tote)} (lane : s.floor.releaseLane = head :: rest)
include lane

theorem State.merge_silent (silent : head = none ∨ ∃ x, head = some x ∧ x.id = none) :
    s.merge = State.afterMerge { s with floor := { s.floor with releaseLane := rest } } := by
  unfold State.merge
  rw [lane]
  rcases silent with rfl | ⟨x, rfl, orphan⟩
  · rfl
  · dsimp only
    rw [State.queueRelease_orphan orphan]

theorem State.merge_named {x : Tote} {t : ToteId} {cls : TempClass} (record : head = some x) (named : x.id = some t)
    (classed : x.cls = some cls) :
    s.merge = State.afterMerge { s.mergeOffered t cls x with floor := { s.floor with releaseLane := rest } } := by
  unfold State.merge
  rw [lane, record]
  dsimp only
  rw [State.queueRelease_named named classed, State.mergeOffered_floor]

end

/-! ### Room and completion after it -/

theorem State.afterMerge_eq (s : State) :
    s.afterMerge = if s.grantRoom.floor.releaseLane = [] then s.grantRoom.completionTest else s.grantRoom := by
  simp only [State.afterMerge, List.isEmpty_iff]

theorem State.grantRoom_none (nobody : s.floor.releaseWait = []) : s.grantRoom = s := by
  unfold State.grantRoom
  rw [nobody]
  rfl

/-- With no port waiting for room and no close pending nothing follows a merge. -/
theorem State.afterMerge_quiet (nobody : s.floor.releaseWait = []) (idle : s.mode.closing = false) : s.afterMerge = s := by
  rw [State.afterMerge_eq, State.grantRoom_none nobody, State.completionTest_idle idle, ite_self]

end

end Sys2Proof.Machine

/-- Settles O33: the head leaves silently (`State.merge_silent`) or with its OFFER (`State.merge_named`), and what follows is
`State.afterMerge`, nothing on a quiet bench. -/
theorem mergeSendsReleaseOffer : Obligations.MergeSendsReleaseOffer := by
  intro s hs
  have event : exec .merge s = .next s.merge := taken_of_live hs State.merge
  refine ⟨fun empty => ?_, fun head rest lane nobody idle => ⟨fun silent => ?_, fun x t cls record named classed => ?_⟩,
    fun head rest lane => ⟨fun silent => ?_, fun x t cls record named classed => ?_⟩⟩
  · rw [event, State.merge_empty empty]
  · rw [event, State.merge_silent lane silent]
    exact congrArg Host.Outcome.next (State.afterMerge_quiet nobody idle)
  · have shut : (s.mergeOffered t cls x).mode.closing = false := (congrArg Mode.closing (s.mergeOffered_mode t cls x)).trans idle
    rw [event, State.merge_named lane record named classed]
    exact congrArg Host.Outcome.next (State.afterMerge_quiet nobody shut)
  · rw [event, State.merge_silent lane silent, State.afterMerge_eq]
  · rw [event, State.merge_named lane record named classed, State.afterMerge_eq]
    rfl
end

section
/-! SUPPORT. The exposure-spent event of one held tote (R95, R96); and the statement. -/

open Sys2Proof Sys2Proof.Machine

namespace Sys2Proof.Machine

/-- A change that keeps the names of the totes leaves each at its port. -/
theorem Floor.mapTotes_portOfTote {f : Tote → Tote} (names : ∀ x, (f x).id = x.id) (fl : Floor) (t : ToteId) :
    (fl.mapTotes f).portOfTote t = fl.portOfTote t := by
  have named : ∀ q : Port, (q.tote.map f).any (·.isId t) = q.tote.any (·.isId t) := fun q => by
    cases q.tote with
    | none => rfl
    | some x => simp [Tote.isId, names]
  simp [Floor.portOfTote, Floor.mapTotes, List.find?_map, Function.comp_def, named]

section
variable {s : State} {t : ToteId}

theorem State.spendIfDue_absent (absent : s.floor.heldTotes.find? (·.isId t) = none) : s.spendIfDue t = s := by
  unfold State.spendIfDue
  rw [absent]

theorem State.spendRecord_portOfTote (s : State) (t : ToteId) (x : Tote) :
    (s.spendRecord t x).floor.portOfTote t = s.floor.portOfTote t :=
  Floor.mapTotes_portOfTote (fun y => by split <;> rfl) s.floor t

section
variable {x : Tote} (found : s.floor.heldTotes.find? (·.isId t) = some x)
include found

theorem State.spendIfDue_not_due (past : x.spent = false ∨ x.spentTaken = true) : s.spendIfDue t = s := by
  unfold State.spendIfDue
  rw [found]
  rcases past with unspent | taken
  · exact if_neg (by simp [unspent])
  · exact if_neg (by simp [taken])

theorem State.mem_due_of_found (spent : x.spent = true) (untaken : x.spentTaken = false) : x ∈ s.due := by
  have named : x.id = some t := by simpa [Tote.isId] using List.find?_some found
  exact List.mem_filter.2 ⟨List.mem_of_find?_eq_some found, by simp [named, spent, untaken]⟩

end

/-- At a port the release test stands between the return of the lines and the passes (R96 step 3). -/
theorem State.spendTote_at_port {p : Nat} (x : Tote) (stands : s.floor.portOfTote t = some p) :
    s.spendTote t x = ((s.spendRecord t x).releaseTest p).passesIf (!(s.spentLines x).isEmpty) := by
  rw [State.spendTote, State.spendRelease, State.spendRecord_portOfTote, stands]

/-- In the intake lane no release is tested. -/
theorem State.spendTote_in_lane (x : Tote) (lane : s.floor.portOfTote t = none) :
    s.spendTote t x = (s.spendRecord t x).passesIf (!(s.spentLines x).isEmpty) := by
  rw [State.spendTote, State.spendRelease, State.spendRecord_portOfTote, lane]

end

end Sys2Proof.Machine

/-- Settles O41: the event is taken where the tote is due (`State.mem_due_of_found`), and a release test is made where it stands at a
port (`State.spendTote_at_port`). -/
theorem exposureSpentReturnsLines : Obligations.ExposureSpentReturnsLines := by
  intro s t hs
  have event : exec (.exposureSpent t) s = .next (s.spendIfDue t) := taken_of_live hs fun u => u.spendIfDue t
  refine ⟨fun absent => ?_, fun x found past => ?_, fun x found spent untaken => ?_⟩
  · rw [event, State.spendIfDue_absent absent]
  · rw [event, State.spendIfDue_not_due found past]
  · have taken : s.spendIfDue t = s.spendTote t x := State.spendIfDue_due found (State.mem_due_of_found found spent untaken)
    refine ⟨fun p stands => ?_, fun lane => ?_⟩
    · rw [event, taken, State.spendTote_at_port x stands]
      rfl
    · rw [event, taken, State.spendTote_in_lane x lane]
      rfl
end

section
/-! SUPPORT. Seat sensor reports by the state of the port and the occupancy reported (R104, R105, R114); and the statement. -/

open Sys2Proof Sys2Proof.Machine

namespace Sys2Proof.Machine

section
variable {s : State} {p : Nat} {q : Port} {occ : Bool} (found : s.floor.port p = some q)
include found

theorem State.seatReport_same (same : q.occupied = occ) : s.seatReport p occ = s := by
  unfold State.seatReport
  rw [found]
  exact if_pos (beq_iff_eq.2 same)

theorem State.seatReport_seat (empty : q.occupied = false) (inbound : q.state = .inbound) : s.seatReport p true = s.seatTote p := by
  unfold State.seatReport
  simp [found, empty, inbound]

theorem State.seatReport_clear {x : Tote} (full : q.occupied = true) (releasing : q.state = .releasing) (held : q.tote = some x) :
    s.seatReport p false = s.clearPort p x := by
  unfold State.seatReport
  simp [found, full, releasing, held]

theorem State.seatReport_emptied (full : q.occupied = true) (vacant : q.state = .vacant) :
    s.seatReport p false = (s.recordSeat p false).route := by
  unfold State.seatReport
  simp [found, full, vacant]

/-- A changed occupancy that is no seat, no port clear and no emptied VACANT seat is recorded alone (R105). -/
theorem State.seatReport_recorded (changed : q.occupied ≠ occ) (noSeat : ¬(q.state = .inbound ∧ occ = true))
    (noClear : ¬(q.state = .releasing ∧ occ = false)) (noRoute : ¬(q.state = .vacant ∧ occ = false)) :
    s.seatReport p occ = s.recordSeat p occ := by
  unfold State.seatReport
  rw [found]
  simp only [beq_iff_eq, Bool.and_eq_true, Bool.not_eq_true', if_neg changed, if_neg noSeat, if_neg noClear, if_neg noRoute]

end

end Sys2Proof.Machine

/-- Settles O31: one lemma for each kind of report (`State.seatReport_same`, `State.seatReport_emptied`, `State.seatReport_recorded`). -/
theorem seatReportsRecorded : Obligations.SeatReportsRecorded := by
  intro s p q occ hs found recorded
  have event : exec (.seatSensorReport p occ) s = .next (s.seatReport p occ) := taken_of_live hs (State.seatReport p occ)
  have alone : q.occupied ≠ occ → ¬(q.state = .inbound ∧ occ = true) → ¬(q.state = .releasing ∧ occ = false) →
      ¬(q.state = .vacant ∧ occ = false) → exec (.seatSensorReport p occ) s = .next recorded :=
    fun changed noSeat noClear noRoute =>
      event.trans (congrArg _ (State.seatReport_recorded found changed noSeat noClear noRoute))
  refine ⟨fun same => ?_, fun changed idle => ?_, fun changed vacant occupied => ?_, fun changed vacant empty => ?_,
    fun changed inbound empty => ?_, fun _ _ occupied => ?_, fun changed releasing occupied => ?_, fun _ _ empty => ?_⟩
  · rw [event, State.seatReport_same found same]
  · refine alone changed ?_ ?_ ?_ <;> rcases idle with state | state | state <;> simp [state]
  · refine alone changed ?_ ?_ ?_ <;> simp [vacant, occupied]
  · subst empty
    rw [event, State.seatReport_emptied found (by simpa using changed) vacant]
    rfl
  · refine alone changed ?_ ?_ ?_ <;> simp [inbound, empty]
  · rw [occupied]
    rfl
  · refine alone changed ?_ ?_ ?_ <;> simp [releasing, occupied]
  · rw [empty]
    rfl
end

section
/-! SUPPORT. The seat event (R104) and the pass it makes on a tote that keeps its lines (R57, R110); and the statement. -/

open Sys2Proof Sys2Proof.Machine

namespace Sys2Proof.Machine

/-- A pass on a named tote that has lines, unspent and not in CLOSING_HARD, changes the list of that tote and nothing else on the floor. -/
theorem State.allocationPass_floor {s : State} {p : Nat} {x : Tote} {t : ToteId} (hp : s.floor.presentedTote p = some x)
    (named : x.id = some t) (lines : x.bound ≠ []) (unspent : x.spent = false) (staying : s.mode ≠ .closingHard) :
    (s.allocationPass p).floor = s.floor.updPort p (TableForm.joined s (s.benchForm x).listed) := by
  have bound : (s.bindPass p x).floor = s.floor.updPort p (TableForm.joined s (s.benchForm x).listed) := by
    rw [TableForm.bindPass_named named]
  have mode : (s.bindPass p x).mode = s.mode := by rw [TableForm.bindPass_named named]
  have kept : (s.withPass x).bound ≠ [] := fun none => by
    have perm := s.mergeBound_perm (s.benchForm x).listed x.bound
    rw [show s.mergeBound (s.benchForm x).listed x.bound = [] from none, List.nil_perm, List.append_eq_nil_iff] at perm
    exact lines perm.2
  have causeless : (s.bindPass p x).releaseCause (s.withPass x) true = none :=
    (State.releaseCause_lines (y := s.withPass x) (t := t) named unspent (mode ▸ staying)).trans (if_neg (by simpa using kept))
  rw [State.allocationPass_eq hp, State.testAfterPass_stays (State.bindPass_presented hp named) (.inr causeless), ← bound]
  split
  · rfl
  · exact State.taskChoice_floor _

/-- The bench with the tote at port `p` PRESENTED (R104). -/
def State.seated (s : State) (p : Nat) : State :=
  { s with floor := { s.floor.updPort p Port.seated with presentation := s.floor.presentation ++ [p] } }

theorem State.seated_port {s : State} {p : Nat} {q : Port} (found : s.floor.port p = some q) :
    (s.seated p).floor.port p = some q.seated := Floor.updPort_port_self found Port.seated fun _ => rfl

theorem State.seated_presented {s : State} {p : Nat} {q : Port} (found : s.floor.port p = some q) :
    (s.seated p).floor.presentedTote p = q.tote := by
  rw [Floor.presentedTote, State.seated_port found]
  rfl

end Sys2Proof.Machine

/-- Settles O28: the pass of the seat event leaves port and presentation order as the event has set them (`State.allocationPass_floor`). -/
theorem seatEventPresents : Obligations.SeatEventPresents := by
  intro s p q hs found inbound empty seated
  have event : exec (.seat p) s = .next ((s.seated p).allocationPass p) :=
    (taken_of_live hs (State.seatReport p true)).trans (congrArg _ (State.seatReport_seat found empty inbound))
  refine ⟨event, fun x t held named lines unspent staying => ⟨_, event, ?_⟩⟩
  have presented : (s.seated p).floor.presentedTote p = some x := (State.seated_presented found).trans held
  rw [State.allocationPass_floor presented named lines unspent staying]
  exact ⟨rfl, _, Floor.updPort_port_self (State.seated_port found) (TableForm.joined _ _) fun _ => rfl, rfl, rfl, rfl⟩
end

section
/-! SUPPORT. The seat timeout (R106), the clear key (R107) and the port clear (R114); and the statement. -/

open Sys2Proof Sys2Proof.Machine

namespace Sys2Proof.Machine

section
variable {s : State} {p : Nat} {q : Port} (found : s.floor.port p = some q)
include found

theorem State.seatTimeout_idle (idle : q.state ≠ .inbound) : s.seatTimeout p = s := by
  unfold State.seatTimeout
  rw [found]
  exact if_neg (by simpa using idle)

/-- The port FAULTED and its tote's list shortened are one change of the port (R106). -/
theorem State.seatTimeout_inbound {x : Tote} (inbound : q.state = .inbound) (held : q.tote = some x) :
    let back := x.bound.filter (s.boundIn .reserved)
    s.seatTimeout p = State.passesIf
      { State.recordFault { s with floor := s.floor.updPort p (TableForm.faulted back) } .seatTimeout p (x.id.getD 0) [] with
        lines := returnLines back s.lines }
      (!back.isEmpty) := by
  intro back
  have once : (s.floor.updPort p fun y => { y with state := .faulted, seatTimer := none }).updPort p
      (fun y => { y with tote := y.tote.map fun z => { z with bound := z.bound.filter fun b => !back.contains b } }) =
      s.floor.updPort p (TableForm.faulted back) :=
    TableForm.updPort_updPort s.floor p (fun y => { y with state := .faulted, seatTimer := none }) _ fun _ => rfl
  unfold State.seatTimeout
  rw [found, ← once]
  simp only [inbound, held, beq_self_eq_true, if_true, Option.bind_some, Option.map_some, Option.getD_some]
  rfl

theorem State.clearKey_idle (idle : q.state ≠ .faulted) : s.clearKey p = s := by
  unfold State.clearKey
  rw [found]
  exact if_neg (by simpa using idle)

theorem State.clearKey_faulted {x : Tote} (faulted : q.state = .faulted) (held : q.tote = some x) :
    s.clearKey p = ((s.write { x with cause := some .manual }.releasedEntry).updPort p Port.vacate).afterVacate := by
  unfold State.clearKey
  simp only [found, faulted, held, beq_self_eq_true, if_true]

end

end Sys2Proof.Machine

/-- Settles O32: each event is one lemma for the port's state (`State.seatTimeout_inbound`, `State.clearKey_faulted`,
`State.seatReport_clear`). -/
theorem timeoutClearKeyAndPortClear : Obligations.TimeoutClearKeyAndPortClear := by
  refine ⟨fun s p q hs found => ?_, fun s p q hs found => ?_⟩
  · have event : exec (.seatTimeout p) s = .next (s.seatTimeout p) := taken_of_live hs (State.seatTimeout p)
    refine ⟨fun idle => ?_, ?_⟩
    · rw [event, State.seatTimeout_idle found idle]
    · intro x inbound held back
      rw [event, State.seatTimeout_inbound found inbound held]
      rfl
  · have key : exec (.clearKey p) s = .next (s.clearKey p) := taken_of_live hs (State.clearKey p)
    have clear : exec (.portClear p) s = .next (s.seatReport p false) := taken_of_live hs (State.seatReport p false)
    refine ⟨fun idle => ?_, fun x faulted held => ?_, fun x releasing full held => ?_⟩
    · rw [key, State.clearKey_idle found idle]
    · rw [key, State.clearKey_faulted found faulted held]
      rfl
    · rw [clear, State.seatReport_clear found full releasing held]
      rfl
end

section
/-! SUPPORT. Routing and granting tested until they move nothing (R102, R113), the grant of a single port, occupied or with its seat
empty; and the statement. -/

open Sys2Proof Sys2Proof.Machine

namespace Sys2Proof.Machine

/-! ### Routing (R102) -/

/-- VACANT with an empty seat. -/
def Port.free (q : Port) : Bool := q.state == .vacant && !q.occupied

theorem Port.free_iff (q : Port) : q.free = true ↔ q.state = .vacant ∧ q.occupied = false := by simp [Port.free]

/-- Routing has nothing to move. -/
def Floor.Settled (fl : Floor) : Prop := fl.lane = [] ∨ fl.routable = none

theorem Floor.routeHead_settled {fl : Floor} (h : fl.Settled) (d : Nat) : fl.routeHead d = fl := by
  unfold Floor.routeHead
  split
  · rename_i lane routable
    rcases h with empty | none
    · cases lane.symm.trans empty
    · cases routable.symm.trans none
  · rfl

theorem Floor.routeUpTo_settled (n d : Nat) {fl : Floor} (h : fl.Settled) : fl.routeUpTo n d = fl := by
  induction n with
  | zero => rfl
  | succ n ih => rw [Floor.routeUpTo, Floor.routeHead_settled h, ih]

/-- A port that the head of the lane has been routed to. -/
def Port.routed (x : Tote) (d : Nat) (q : Port) : Port :=
  { q with state := .inbound, tote := some x, seatTimer := some d, routerStrokes := q.routerStrokes + 1 }

theorem Floor.routeHead_moves {fl : Floor} {x : Tote} {rest : List Tote} {q : Port} (lane : fl.lane = x :: rest)
    (free : fl.routable = some q) (d : Nat) :
    fl.routeHead d = { fl.updPort q.num (Port.routed x d) with lane := rest } := by
  unfold Floor.routeHead
  rw [lane, free]
  rfl

theorem Floor.routable_free {fl : Floor} {q : Port} (free : fl.routable = some q) : q.free = true :=
  List.find?_some (p := Port.free) free

/-- A routing fills one free port. -/
theorem Floor.routeHead_countP {fl : Floor} (n : fl.portNums.Nodup) (moves : ¬fl.Settled) (d : Nat) :
    (fl.routeHead d).ports.countP Port.free + 1 = fl.ports.countP Port.free := by
  obtain ⟨occupied, some⟩ := not_or.1 moves
  obtain ⟨x, rest, lane⟩ := List.exists_cons_of_ne_nil occupied
  obtain ⟨q, free⟩ := Option.ne_none_iff_exists'.1 some
  obtain ⟨l, r, ports, changed⟩ := Floor.split_port n (Floor.routable_mem free)
  rw [Floor.routeHead_moves lane free]
  simp only [Floor.updPort, changed]
  have filled : (Port.routed x d q).free = false := rfl
  simp only [ports, List.countP_append, List.countP_cons, Floor.routable_free free, filled, if_true, Bool.false_eq_true, if_false]
  omega

/-- As many tests as there are free ports settle the lane. -/
theorem Floor.settled_routeUpTo (k d : Nat) {fl : Floor} (n : fl.portNums.Nodup) (enough : fl.ports.countP Port.free ≤ k) :
    (fl.routeUpTo k d).Settled := by
  induction k generalizing fl with
  | zero =>
      refine .inr (List.find?_eq_none.2 fun q hq => ?_)
      exact List.countP_eq_zero.1 (Nat.le_zero.1 enough) q hq
  | succ k ih =>
      rw [Floor.routeUpTo]
      by_cases settled : fl.Settled
      · rw [Floor.routeHead_settled settled, Floor.routeUpTo_settled k d settled]
        exact settled
      · have filled := Floor.routeHead_countP n settled d
        exact ih ((FloorStep.routeHead fl d).nodup n) (by omega)

/-- Routing leaves everything but lane and ports. -/
theorem Floor.routeUpTo_frame (k d : Nat) (fl : Floor) :
    (fl.routeUpTo k d).presentation = fl.presentation ∧ (fl.routeUpTo k d).releaseWait = fl.releaseWait ∧
      (fl.routeUpTo k d).releaseLane = fl.releaseLane := by
  induction k generalizing fl with
  | zero => exact ⟨rfl, rfl, rfl⟩
  | succ k ih =>
      obtain ⟨presentation, releaseWait, releaseLane⟩ := ih (fl.routeHead d)
      have head : (fl.routeHead d).presentation = fl.presentation ∧ (fl.routeHead d).releaseWait = fl.releaseWait ∧
          (fl.routeHead d).releaseLane = fl.releaseLane := by
        unfold Floor.routeHead
        split <;> exact ⟨rfl, rfl, rfl⟩
      exact ⟨presentation.trans head.1, releaseWait.trans head.2.1, releaseLane.trans head.2.2⟩

/-- A lane of one record, and a port for it. -/
theorem State.route_one {s : State} {x : Tote} {q : Port} (lane : s.floor.lane = [x]) (free : s.floor.routable = some q) :
    s.route =
      { s with floor := { s.floor.updPort q.num (Port.routed x (s.ms + 1000 * s.cfg.seatTimeout)) with lane := [] } } := by
  obtain ⟨k, length⟩ := Nat.exists_eq_succ_of_ne_zero (List.length_pos_of_mem (Floor.routable_mem free)).ne'
  rw [State.route, length, Floor.routeUpTo, Floor.routeHead_moves lane free, Floor.routeUpTo_settled _ _ (.inl rfl)]

/-! ### Granting (R113) -/

theorem State.hasRoom_iff (s : State) :
    s.hasRoom = true ↔ s.floor.releaseLane.length + (s.floor.ports.filter fun q => q.state == .releasing).length < 2 := by
  rw [State.hasRoom, decide_eq_true_iff, List.countP_eq_length_filter, Config.releaseLanePlaces]

/-- Granting has no port to serve, or no room. -/
def State.Granted (s : State) : Prop := s.floor.releaseWait = [] ∨ s.hasRoom = false

theorem State.grantHead_granted {s : State} (h : s.Granted) : s.grantHead = s := by
  unfold State.grantHead
  split
  · rfl
  · rename_i waiting
    rcases h with none | full
    · cases waiting.symm.trans none
    · rw [full, if_neg Bool.false_ne_true]

theorem State.grantUpTo_granted (n : Nat) {s : State} (h : s.Granted) : s.grantUpTo n = s := by
  induction n with
  | zero => rfl
  | succ n ih => rw [State.grantUpTo, State.grantHead_granted h, ih]

theorem State.grantHead_grants {s : State} {p : Nat} {rest : List Nat} (waiting : s.floor.releaseWait = p :: rest)
    (room : s.hasRoom = true) : s.grantHead = State.grantTo { s with floor := { s.floor with releaseWait := rest } } p := by
  unfold State.grantHead
  rw [waiting]
  exact if_pos room

theorem State.route_releaseWait (s : State) : s.route.floor.releaseWait = s.floor.releaseWait :=
  (s.floor.routeUpTo_frame _ _).2.1

theorem State.grantTo_releaseWait (s : State) (p : Nat) : (s.grantTo p).floor.releaseWait = s.floor.releaseWait := by
  unfold State.grantTo
  split
  · rfl
  · split
    · rfl
    · unfold State.removeAtGrant
      split
      · rfl
      · rw [State.route_releaseWait, State.completionTest_floor]
        rfl

/-- As many tests as ports wait leave none waiting beside room. -/
theorem State.granted_grantUpTo (n : Nat) {s : State} (enough : s.floor.releaseWait.length ≤ n) : (s.grantUpTo n).Granted := by
  induction n generalizing s with
  | zero => exact .inl (List.length_eq_zero_iff.1 (Nat.le_zero.1 enough))
  | succ n ih =>
      rw [State.grantUpTo]
      by_cases granted : s.Granted
      · rw [State.grantHead_granted granted, State.grantUpTo_granted n granted]
        exact granted
      · obtain ⟨waits, room⟩ := not_or.1 granted
        obtain ⟨p, rest, waiting⟩ := List.exists_cons_of_ne_nil waits
        refine ih ?_
        rw [State.grantHead_grants waiting (Bool.not_eq_false _ ▸ room), State.grantTo_releaseWait]
        rw [waiting, List.length_cons] at enough
        exact Nat.le_of_succ_le_succ enough

/-- One port waiting beside room is granted it. -/
theorem State.grantRoom_one {s : State} {p : Nat} (waiting : s.floor.releaseWait = [p]) (room : s.hasRoom = true) :
    s.grantRoom = State.grantTo { s with floor := { s.floor with releaseWait := [] } } p := by
  rw [State.grantRoom, waiting, ← State.grantHead_grants waiting room]
  rfl

section
variable {s : State} {p : Nat} {q : Port} (found : s.floor.port p = some q)
include found

theorem State.grantTo_occupied (full : q.occupied = true) :
    s.grantTo p = s.updPort p fun x => { x with state := .releasing, releaseStrokes := x.releaseStrokes + 1 } := by
  simp only [State.grantTo, found, full, if_true]

/-- With its seat empty the port's tote leaves no record (R113 step 3). -/
theorem State.grantTo_empty {x : Tote} (empty : q.occupied = false) (held : q.tote = some x) :
    s.grantTo p = ((s.write x.releasedEntry).updPort p Port.vacate).completionTest.route := by
  simp only [State.grantTo, found, empty, Bool.false_eq_true, if_false, State.removeAtGrant, held, (Floor.port_mem found).2]

end

end Sys2Proof.Machine

/-- Settles O27: each test is repeated as often as it can move anything (`Floor.settled_routeUpTo`, `State.granted_grantUpTo`). -/
theorem routingAndGranting : Obligations.RoutingAndGranting := by
  refine ⟨fun s n => ?_, fun s x q lane _ free => State.route_one lane free, fun s => ?_,
    fun s q waiting found full room => ?_, fun s q x waiting found empty held room => ?_⟩
  · refine (Floor.settled_routeUpTo _ _ n List.countP_le_length).imp_right fun none q hq free => ?_
    exact List.find?_eq_none.1 none q hq (q.free_iff.2 free)
  · refine (State.granted_grantUpTo _ le_rfl).imp_right fun full => ?_
    exact Nat.not_lt.1 fun room => Bool.false_ne_true (full.symm.trans ((State.hasRoom_iff _).2 room))
  · rw [State.grantRoom_one waiting ((State.hasRoom_iff s).2 room)]
    exact State.grantTo_occupied (s := { s with floor := { s.floor with releaseWait := [] } }) found full
  · rw [State.grantRoom_one waiting ((State.hasRoom_iff s).2 room)]
    exact State.grantTo_empty (s := { s with floor := { s.floor with releaseWait := [] } }) found empty held
end

section
/-! SUPPORT. The release test, cause by cause (R110, R111); and the statement. -/

open Sys2Proof Sys2Proof.Machine

namespace Sys2Proof.Machine

theorem State.boundIn_iff (s : State) (st : LineState) (b : BoundLine) :
    s.boundIn st b = true ↔ ∃ l, s.lineOf b = some l ∧ l.state = st := by
  simp [State.boundIn, Option.any_eq_true]

theorem State.litOn_iff (s : State) (x : Tote) :
    s.litOn x = true ↔ ∃ b ∈ x.bound, ∃ l, s.lineOf b = some l ∧ l.state = .active := by
  simp only [State.litOn, List.any_eq_true, State.boundIn_iff]

section
variable {s : State} {p : Nat} {x : Tote} (presented : s.floor.presentedTote p = some x)
include presented

theorem State.releaseTest_lit (lit : s.litOn x = true) : s.releaseTest p = s := by
  unfold State.releaseTest
  rw [presented]
  exact if_pos lit

theorem State.releaseTest_leaves (dark : s.litOn x = false) {c : ReleaseCause} (cause : s.releaseCause x false = some c) :
    s.releaseTest p = s.toReleaseWait p x c := by
  simp only [State.releaseTest, presented, dark, cause, Bool.false_eq_true, if_false]

theorem State.releaseTest_passes (dark : s.litOn x = false) (causeless : s.releaseCause x false = none) (empty : x.bound = []) :
    s.releaseTest p = s.allocationPass p := by
  simp only [State.releaseTest, presented, dark, causeless, empty, Bool.false_eq_true, if_false, List.isEmpty_nil, if_true]

end

end Sys2Proof.Machine

/-- Settles O30: the causes in the order in which `State.releaseCause` tries them. -/
theorem releaseTestCauses : Obligations.ReleaseTestCauses := by
  intro s p x presented lit waits
  have dark (unlit : ¬lit) : s.litOn x = false := Bool.eq_false_iff.2 fun h => unlit ((s.litOn_iff x).1 h)
  have leaves (unlit : ¬lit) {c : ReleaseCause} (cause : s.releaseCause x false = some c) : s.releaseTest p = waits c :=
    State.releaseTest_leaves presented (dark unlit) cause
  refine ⟨fun h => State.releaseTest_lit presented ((s.litOn_iff x).2 h), fun unlit orphan => leaves unlit ?_,
    fun unlit named spent => leaves unlit ?_, fun unlit named unspent hard => leaves unlit ?_,
    fun unlit named unspent staying lines => ?_, fun unlit named unspent staying empty => ?_⟩
  · simp [State.releaseCause, orphan]
  · simp [State.releaseCause, named, spent]
  · simp [State.releaseCause, named, unspent, hard]
  · exact State.releaseTest_stays presented (Option.isNone_eq_false_iff.2 (Option.isSome_iff_ne_none.2 named)) unspent staying lines
  · exact State.releaseTest_passes presented (dark unlit) (by simp [State.releaseCause, named, unspent, staying]) empty
end

section
/-! SUPPORT. Contests that end one after another (R62, R152, R153): the records they take out, the frames in carriage that they leave, and
the entries they write. -/

open Sys2Proof Sys2Proof.Machine

namespace Sys2Proof.Machine

/-! ### Frames in carriage -/

theorem insertTx_inCarriage {e : TxEntry} (waits : e.inCarriage = false) (q : List TxEntry) :
    (insertTx e q).filter (·.inCarriage) = q.filter (·.inCarriage) := by
  induction q with
  | nil => simp [insertTx, waits]
  | cons x xs ih =>
      unfold insertTx
      split
      · rw [List.filter_cons, ih, ← List.filter_cons]
      · exact List.filter_cons_of_neg (by simp [waits])

theorem splitLowest_inCarriage (q : List TxEntry) (d : TxEntry) (rest : List TxEntry) (h : splitLowest q = some (d, rest)) :
    rest.filter (·.inCarriage) = q.filter (·.inCarriage) := by
  induction q generalizing d rest with
  | nil => cases h
  | cons x xs ih =>
      unfold splitLowest at h
      split at h
      · rename_i later
        cases h
        rw [List.filter_cons, ih _ _ later, ← List.filter_cons]
      · split at h
        · cases h
        · rename_i waits
          cases h
          exact (List.filter_cons_of_neg waits).symm

/-- Queueing a frame adds one that waits, and drops none in carriage (R181). -/
theorem enqueue_inCarriage (q : List TxEntry) (f : Frame) : (enqueue q f).1.filter (·.inCarriage) = q.filter (·.inCarriage) := by
  unfold enqueue
  dsimp only
  split
  · exact insertTx_inCarriage rfl q
  · split
    · rename_i d rest lowest
      split
      · exact (insertTx_inCarriage rfl rest).trans (splitLowest_inCarriage q d rest lowest)
      · rfl
    · rfl

/-- The frames in carriage are the given ones. -/
theorem KeepsFloor.carriageIs (x : List TxEntry) : KeepsFloor fun s => s.queue.filter (·.inCarriage) = x where
  lines _ h := h
  puts _ h := h
  lanes _ h := h
  floor _ _ h := h
  panel _ _ h := h
  write _ h := h
  faults _ h := h
  enqueue f h := (enqueue_inCarriage _ f).trans h
  closed _ _ h := h

theorem State.frameInCarriage_eq (s : State) (t : ToteId) :
    s.frameInCarriage t = (s.queue.filter (·.inCarriage)).any fun e => !e.ownerEnded && isContestFrame t e.frame := by
  rw [State.frameInCarriage, List.any_filter]
  simp only [Bool.and_assoc]

theorem isContestFrame_unique {t u : ToteId} {f : Frame} (own : isContestFrame t f = true) (other : isContestFrame u f = true) :
    t = u := by
  unfold isContestFrame at own other
  cases kind : f.payload with
  | bid v | take v _ =>
      simp only [kind, beq_iff_eq] at own other
      exact own.trans other.symm
  | offer | landed | reply | quiet | journal => simp [kind] at own

/-- An ending marks no frame of another tote. -/
theorem withdrawFrames_any {t u : ToteId} (other : t ≠ u) (q : List TxEntry) :
    ((withdrawFrames u q).any fun e => e.inCarriage && !e.ownerEnded && isContestFrame t e.frame) =
      q.any fun e => e.inCarriage && !e.ownerEnded && isContestFrame t e.frame := by
  rw [withdrawFrames_eq]
  induction q with
  | nil => rfl
  | cons e es ih =>
      rw [List.any_cons, ← ih]
      cases ending : isContestFrame u e.frame with
      | false => rw [List.filterMap_cons_some (b := e) (by simp [TxEntry.afterEnd, ending]), List.any_cons]
      | true =>
          have foreign : isContestFrame t e.frame = false := Bool.eq_false_iff.2 fun own => other (isContestFrame_unique own ending)
          cases carried : e.inCarriage with
          | false =>
              rw [List.filterMap_cons_none (by simp [TxEntry.afterEnd, ending, carried])]
              simp
          | true =>
              rw [List.filterMap_cons_some (b := { e with ownerEnded := true }) (by simp [TxEntry.afterEnd, ending, carried]), List.any_cons]
              simp [foreign]

/-! ### One ending -/

section
variable {s : State} {c : Contest} {t : ToteId}

theorem State.endContest_contestOf_ne (other : t ≠ c.tote) (o : ContestOutcome) (n : Nat) :
    (s.endContest c o n).contestOf t = s.contestOf t := by
  rw [State.contestOf, State.endContest_contests, List.find?_filter, State.contestOf]
  congr 1
  funext x
  by_cases here : x.tote = t
  · simp [here, other]
  · simp [here]

/-- What an ending leaves in carriage is what withdrawing the record's frames leaves. -/
theorem State.endContest_inCarriage (s : State) (c : Contest) (o : ContestOutcome) (n : Nat) :
    (s.endContest c o n).queue.filter (·.inCarriage) = (withdrawFrames c.tote s.queue).filter (·.inCarriage) := by
  have keeps := KeepsFloor.carriageIs ((withdrawFrames c.tote s.queue).filter (·.inCarriage))
  rw [State.endContest_eq]
  refine keeps.completionTest (keeps.passesIf _ ?_)
  unfold State.ended
  split
  · exact keeps.queueToAll (s := (s.freed c o).updRoster c.tote fun r => { r with holder := none }) _ rfl
  · rfl

theorem State.endContest_frameInCarriage_ne (other : t ≠ c.tote) (o : ContestOutcome) (n : Nat) :
    (s.endContest c o n).frameInCarriage t = s.frameInCarriage t := by
  rw [State.frameInCarriage_eq, State.endContest_inCarriage, List.any_filter, State.frameInCarriage, ← withdrawFrames_any other]
  simp only [Bool.and_assoc]

theorem Keeps.journalGrows (es : List Entry) : Keeps fun s => es <+: s.journal.entries where
  toKeepsFloor := KeepsFloor.journalGrows es
  contests _ _ h := h
  roster _ _ h := h
  withdraw _ h := h

/-- An ending with a CLAIM_END due writes it before anything else (R62, R83). -/
theorem State.endContest_claimEnd {o : ContestOutcome} (due : claimEndDue c.state o = true) (n : Nat) :
    s.journal.entries ++ [s.journal.entryAt s.now (.claimEnd c.tote o c.key.score)] <+: (s.endContest c o n).journal.entries := by
  have grows := KeepsFloor.journalGrows (s.journal.entries ++ [s.journal.entryAt s.now (.claimEnd c.tote o c.key.score)])
  have first : s.journal.entries ++ [s.journal.entryAt s.now (.claimEnd c.tote o c.key.score)] <+: (s.freed c o).journal.entries := by
    change _ <+: (if claimEndDue c.state o then s.journal.write s.now (.claimEnd c.tote o c.key.score) else s.journal).entries
    rw [if_pos due, Journal.write_entries _ _ rfl]
  rw [State.endContest_eq]
  refine grows.completionTest (grows.passesIf _ ?_)
  unfold State.ended
  split
  · exact grows.queueToAll (s := (s.freed c o).updRoster c.tote fun r => { r with holder := none }) _ first
  · exact first

end

/-! ### Endings one after another -/

/-- The records end one after another, each naming its own slot. -/
def State.endAll (s : State) (o : ContestOutcome) (cs : List Contest) : State := cs.foldl (fun u c => u.endContest c o c.slot) s

theorem Keeps.endAll {P : State → Prop} (h : Keeps P) {s : State} (o : ContestOutcome) (cs : List Contest) (hs : P s) :
    P (s.endAll o cs) :=
  KeepsFloor.foldl _ (fun c hs => h.endContest c o c.slot hs) cs hs

theorem State.endAll_contests (s : State) (o : ContestOutcome) (cs : List Contest) :
    (s.endAll o cs).contests = s.contests.filter fun x => decide (x.tote ∉ cs.map (·.tote)) := by
  induction cs generalizing s with
  | nil => simp [State.endAll]
  | cons c cs ih =>
      refine (ih (s.endContest c o c.slot)).trans ?_
      rw [State.endContest_contests, List.filter_filter]
      refine List.filter_congr fun x _ => ?_
      by_cases same : x.tote = c.tote <;> simp [same]

/-- An event taken for each record in turn, which ends the records `ends` and does nothing to the others, ends them one after another, if
what it looks at (`Looks`) outlasts the endings of other records. -/
theorem State.foldl_eq_endAll {event : State → ToteId → State} {o : ContestOutcome} {ends : Contest → Bool}
    {Looks : State → Contest → Prop}
    (step : ∀ u c, Looks u c → event u c.tote = if ends c then u.endContest c o c.slot else u)
    (lasts : ∀ u c d, d.tote ≠ c.tote → Looks u d → Looks (u.endContest c o c.slot) d)
    (cs : List Contest) (once : (cs.map (·.tote)).Nodup) (u : State) (start : ∀ c ∈ cs, Looks u c) :
    (cs.map (·.tote)).foldl event u = u.endAll o (cs.filter ends) := by
  induction cs generalizing u with
  | nil => rfl
  | cons c cs ih =>
      obtain ⟨fresh, rest⟩ := List.nodup_cons.1 once
      have later : ∀ d ∈ cs, Looks u d := fun d hd => start d (List.mem_cons_of_mem _ hd)
      rw [List.map_cons, List.foldl_cons, step u c (start c List.mem_cons_self)]
      cases ending : ends c with
      | false =>
          rw [List.filter_cons_of_neg (by simp [ending])]
          exact ih rest u later
      | true =>
          rw [List.filter_cons_of_pos ending]
          refine ih rest (u.endContest c o c.slot) fun d hd => lasts u c d (fun same => fresh ?_) (later d hd)
          exact List.mem_map.2 ⟨d, hd, same⟩

/-- Endings with a CLAIM_END due write them in their order. -/
theorem State.endAll_claimEnds (o : ContestOutcome) (cs : List Contest) (due : ∀ c ∈ cs, claimEndDue c.state o = true) (s : State) :
    ∃ es : List Entry, (s.endAll o cs).journal.entries = s.journal.entries ++ es ∧
      (cs.map fun c => EntryBody.claimEnd c.tote o c.key.score).Sublist (es.map (·.body)) := by
  induction cs generalizing s with
  | nil => exact ⟨[], (List.append_nil _).symm, List.Sublist.refl _⟩
  | cons c cs ih =>
      obtain ⟨between, first⟩ := State.endContest_claimEnd (s := s) (due c List.mem_cons_self) c.slot
      obtain ⟨es, rest, written⟩ := ih (fun d hd => due d (List.mem_cons_of_mem _ hd)) (s.endContest c o c.slot)
      refine ⟨s.journal.entryAt s.now (.claimEnd c.tote o c.key.score) :: (between ++ es), ?_, ?_⟩
      · rw [show (s.endAll o (c :: cs)).journal.entries = _ from rest, ← first]
        simp
      · rw [List.map_cons, List.map_cons, List.map_append]
        exact (written.trans (List.sublist_append_right _ _)).cons_cons _

/-! ### The records that a close withdraws (R152 step 3) -/

/-- BID_QUEUED or WON, without an own frame in carriage (R155). -/
def State.withdraws (s : State) (c : Contest) : Bool :=
  (c.state == .bidQueued || c.state == .won) && !s.frameInCarriage c.tote

theorem State.withdrawAllQueued_eq {s : State} (once : (s.contests.map (·.tote)).Nodup) :
    s.withdrawAllQueued = s.endAll .withdrawn (s.contests.filter s.withdraws) := by
  refine State.foldl_eq_endAll (Looks := fun u c => u.contestOf c.tote = some c ∧ u.frameInCarriage c.tote = s.frameInCarriage c.tote)
    (fun u c looks => ?_) (fun u c d other looks => ?_) s.contests once s fun c hc => ⟨State.contestOf_of_mem once hc, rfl⟩
  · obtain ⟨found, carried⟩ := looks
    unfold State.withdrawQueued
    rw [found]
    dsimp only
    rw [carried]
    rfl
  · rw [State.endContest_contestOf_ne other, State.endContest_frameInCarriage_ne other]
    exact looks

/-! ### The claims that a CLOSE_HARD gives back, nearest first (R153 step 4) -/

theorem State.insertNear_perm (s : State) (c : Contest) (cs : List Contest) : (s.insertNear c cs).Perm (c :: cs) := by
  induction cs with
  | nil => rfl
  | cons x xs ih =>
      unfold State.insertNear
      split
      · rfl
      · exact (ih.cons x).trans (List.Perm.swap c x xs)

theorem State.sortNear_perm (s : State) (cs : List Contest) : (s.sortNear cs).Perm cs := by
  induction cs with
  | nil => rfl
  | cons x xs ih => exact (s.insertNear_perm x _).trans (ih.cons x)

/-- The order depends on the distances alone. -/
theorem State.sortNear_congr {s u : State} (same : ∀ n, u.distance n = s.distance n) (cs : List Contest) :
    u.sortNear cs = s.sortNear cs := by
  have insert (c : Contest) (xs : List Contest) : u.insertNear c xs = s.insertNear c xs := by
    induction xs with
    | nil => rfl
    | cons x xs ih => simp only [State.insertNear, same, ih]
  induction cs with
  | nil => rfl
  | cons x xs ih => rw [State.sortNear, State.sortNear, ih, insert]

/-- `a` stands before `b` in the order of distances; log 17: at one distance, as they stand in the table. -/
def State.Nearer (s : State) (cs : List Contest) (a b : Contest) : Prop :=
  s.distance a.slot < s.distance b.slot ∨ s.distance a.slot = s.distance b.slot ∧ [a, b].Sublist cs

theorem State.Nearer.mono {s : State} {cs ds : List Contest} (longer : cs.Sublist ds) {a b : Contest} (h : s.Nearer cs a b) :
    s.Nearer ds a b := h.imp_right fun ⟨equal, before⟩ => ⟨equal, before.trans longer⟩

theorem State.Nearer.le {s : State} {cs : List Contest} {a b : Contest} (h : s.Nearer cs a b) : s.distance a.slot ≤ s.distance b.slot :=
  h.elim Nat.le_of_lt fun ⟨equal, _⟩ => equal.le

/-- A record inserted into an order of the records behind it in the table stands at its place. -/
theorem State.insertNear_sorted {s : State} {c : Contest} {cs xs : List Contest} (sorted : xs.Pairwise (s.Nearer (c :: cs)))
    (behind : ∀ x ∈ xs, x ∈ cs) : (s.insertNear c xs).Pairwise (s.Nearer (c :: cs)) := by
  induction xs with
  | nil => exact List.pairwise_singleton _ _
  | cons x xs ih =>
      obtain ⟨head, tail⟩ := List.pairwise_cons.1 sorted
      unfold State.insertNear
      split
      · rename_i near
        refine List.pairwise_cons.2 ⟨fun y hy => ?_, sorted⟩
        have least : s.distance x.slot ≤ s.distance y.slot := by
          rcases List.mem_cons.1 hy with rfl | later
          · exact le_rfl
          · exact (head y later).le
        exact (near.trans least).lt_or_eq.imp_right fun equal => ⟨equal, (List.singleton_sublist.2 (behind y hy)).cons_cons c⟩
      · rename_i far
        refine List.pairwise_cons.2 ⟨fun y hy => ?_, ih tail fun y hy => behind y (List.mem_cons_of_mem _ hy)⟩
        rcases List.mem_cons.1 ((s.insertNear_perm c xs).subset hy) with rfl | later
        · exact .inl (not_le.1 far)
        · exact head y later

theorem State.sortNear_sorted (s : State) (cs : List Contest) : (s.sortNear cs).Pairwise (s.Nearer cs) := by
  induction cs with
  | nil => exact List.Pairwise.nil
  | cons x xs ih =>
      exact State.insertNear_sorted (ih.imp fun before => before.mono (List.sublist_cons_self x xs))
        fun y hy => (s.sortNear_perm xs).subset hy

/-- The CLAIMED records, nearest first. -/
def State.nearest (s : State) : List Contest := s.sortNear (s.contests.filter fun c => c.state.claimed)

theorem State.mem_nearest {s : State} {c : Contest} : c ∈ s.nearest ↔ c ∈ s.contests ∧ c.state.claimed = true := by
  rw [State.nearest, (s.sortNear_perm _).mem_iff, List.mem_filter]

theorem State.relinquishAll_eq {s : State} (once : (s.contests.map (·.tote)).Nodup) :
    s.relinquishAll = s.endAll .relinquished s.nearest := by
  have distinct : (s.nearest.map (·.tote)).Nodup :=
    ((s.sortNear_perm _).map _).nodup_iff.2 (once.sublist (List.filter_sublist.map _))
  refine (State.foldl_eq_endAll (ends := fun _ => true)
    (Looks := fun u c => u.contestOf c.tote = some c ∧ c.state.claimed = true) (fun u c looks => ?_) (fun u c d other looks => ?_)
    s.nearest distinct s fun c hc => ?_).trans (congrArg _ (List.filter_eq_self.2 fun _ _ => rfl))
  · obtain ⟨found, claimed⟩ := looks
    simp only [State.relinquish, found, claimed, if_true]
  · rw [State.endContest_contestOf_ne other]
    exact looks
  · obtain ⟨mem, claimed⟩ := State.mem_nearest.1 hc
    exact ⟨State.contestOf_of_mem once mem, claimed⟩

end Sys2Proof.Machine
end

section
/-! SUPPORT. What the entry steps of a close leave (R152 to R154, log 15): mode and requester, a transmit queue without the frames of the
records withdrawn, and after the sweep of a hard close no PRESENTED tote without a lit task. -/

open Sys2Proof Sys2Proof.Machine

namespace Sys2Proof.Machine

/-! ### Mode and requester -/

/-- Inside the entry steps of a close to `m` that station `r` asked for. -/
structure Closing (m : Mode) (r : Nat) (s : State) : Prop where
  entry : s.closeEntry = true
  mode : s.mode = m
  requester : s.requester = some r

theorem Closing.keeps (m : Mode) (r : Nat) : Keeps (Closing m r) where
  lines _ h := ⟨h.entry, h.mode, h.requester⟩
  puts _ h := ⟨h.entry, h.mode, h.requester⟩
  lanes _ h := ⟨h.entry, h.mode, h.requester⟩
  floor _ _ h := ⟨h.entry, h.mode, h.requester⟩
  panel _ _ h := ⟨h.entry, h.mode, h.requester⟩
  write _ h := ⟨h.entry, h.mode, h.requester⟩
  faults _ h := ⟨h.entry, h.mode, h.requester⟩
  enqueue _ h := ⟨h.entry, h.mode, h.requester⟩
  closed _ ended h := absurd (ended.symm.trans h.entry) Bool.false_ne_true
  contests _ _ h := ⟨h.entry, h.mode, h.requester⟩
  roster _ _ h := ⟨h.entry, h.mode, h.requester⟩
  withdraw _ h := ⟨h.entry, h.mode, h.requester⟩

theorem Closing.begin (s : State) (m : Mode) (r : Nat) : Closing m r (s.beginClose m r) := ⟨rfl, rfl, rfl⟩

/-! ### The transmit queue inside the entry steps -/

theorem State.completionTest_waits {s : State} (entry : s.closeEntry = true) : s.completionTest = s :=
  if_neg (by simp [entry])

/-- Inside the entry steps of a close, with the transmit queue `q`. Passes, release tests and grants queue no frame there, since the
completion test waits. -/
structure EntryQueue (q : List TxEntry) (s : State) : Prop where
  entry : s.closeEntry = true
  queue : s.queue = q

namespace EntryQueue

variable {q : List TxEntry} {s : State}

theorem taskChoice (h : EntryQueue q s) : EntryQueue q s.taskChoice := by
  unfold State.taskChoice
  split
  · split
    · exact h
    · split
      · split
        · exact ⟨h.entry, h.queue⟩
        · exact h
      · exact h
  · exact h

theorem removeAtGrant (h : EntryQueue q s) (p : Port) : EntryQueue q (s.removeAtGrant p) := by
  unfold State.removeAtGrant
  split
  · exact ⟨h.entry, h.queue⟩
  · rename_i x _
    rw [State.completionTest_waits (show ((s.write x.releasedEntry).updPort p.num Port.vacate).closeEntry = true from h.entry)]
    exact ⟨h.entry, h.queue⟩

theorem grantTo (h : EntryQueue q s) (p : Nat) : EntryQueue q (s.grantTo p) := by
  unfold State.grantTo
  split
  · exact h
  · split
    · exact ⟨h.entry, h.queue⟩
    · exact h.removeAtGrant _

theorem grantHead (h : EntryQueue q s) : EntryQueue q s.grantHead := by
  unfold State.grantHead
  split
  · exact h
  · rename_i p rest _
    split
    · exact grantTo (s := { s with floor := { s.floor with releaseWait := rest } }) ⟨h.entry, h.queue⟩ p
    · exact h

theorem grantUpTo (n : Nat) (h : EntryQueue q s) : EntryQueue q (s.grantUpTo n) := by
  induction n generalizing s with
  | zero => exact h
  | succ n ih => exact ih h.grantHead

theorem toReleaseWait (h : EntryQueue q s) (p : Nat) (x : Tote) (c : ReleaseCause) : EntryQueue q (s.toReleaseWait p x c) := by
  rw [State.toReleaseWait_eq]
  exact grantUpTo _ ⟨h.entry, h.queue⟩

theorem bindPass (h : EntryQueue q s) (p : Nat) (x : Tote) : EntryQueue q (s.bindPass p x) := by
  unfold State.bindPass
  split <;> exact ⟨h.entry, h.queue⟩

theorem testAfterPass (h : EntryQueue q s) (p : Nat) : EntryQueue q (s.testAfterPass p) := by
  unfold State.testAfterPass
  split
  · exact h
  · split
    · exact h
    · split
      · exact h.toReleaseWait p _ _
      · exact h

theorem allocationPass (h : EntryQueue q s) (p : Nat) : EntryQueue q (s.allocationPass p) := by
  unfold State.allocationPass
  split
  · exact h
  · dsimp only
    have tested := (h.bindPass p ‹_›).testAfterPass p
    split
    · exact tested
    · exact tested.taskChoice

theorem releaseTest (h : EntryQueue q s) (p : Nat) : EntryQueue q (s.releaseTest p) := by
  unfold State.releaseTest
  split
  · exact h
  · split
    · exact h
    · split
      · exact h.toReleaseWait p _ _
      · split
        · exact h.allocationPass p
        · exact h

theorem passesIf (h : EntryQueue q s) (b : Bool) : EntryQueue q (s.passesIf b) := by
  unfold State.passesIf
  split
  · exact KeepsFloor.foldl _ (fun p h => h.allocationPass p) _ h
  · exact h

end EntryQueue

theorem State.queueFrame_queue (s : State) (f : Frame) : (s.queueFrame f).queue = (enqueue s.queue f).1 := by
  unfold State.queueFrame
  split
  · rename_i queued
    rw [queued]
  · rename_i queued
    rw [queued]
    rfl

/-- The frames that an ending queues beside those it withdraws: the OFFER of a claim given back. -/
theorem State.ended_queue (s : State) (c : Contest) (o : ContestOutcome) (n : Nat) :
    (s.ended c o n).queue = withdrawFrames c.tote s.queue ∨
      ∃ f, (∀ t, isContestFrame t f = false) ∧ (s.ended c o n).queue = (enqueue (withdrawFrames c.tote s.queue) f).1 := by
  unfold State.ended
  split
  · exact .inr ⟨_, fun _ => rfl, State.queueFrame_queue _ _⟩
  · exact .inl rfl

theorem State.endContest_queue {s : State} (entry : s.closeEntry = true) (c : Contest) (o : ContestOutcome) (n : Nat) :
    (s.endContest c o n).queue = (s.ended c o n).queue := by
  have ended : (s.ended c o n).closeEntry = true := by
    unfold State.ended
    split
    · exact (KeepsFloor.closeEntryIs true).queueToAll (s := (s.freed c o).updRoster c.tote fun r => { r with holder := none }) _ entry
    · exact entry
  have passed := EntryQueue.passesIf ⟨ended, rfl⟩ (!c.bound.isEmpty)
  rw [State.endContest_eq, State.completionTest_waits passed.entry, passed.queue]

/-! ### Records withdrawn for good -/

/-- No frame of the record of `t` waits in the queue. -/
def Frameless (t : ToteId) (q : List TxEntry) : Prop := ∀ e ∈ q, e.inCarriage = false → isContestFrame t e.frame = false

theorem Frameless.withdrawn (t : ToteId) (q : List TxEntry) : Frameless t (withdrawFrames t q) := by
  intro e he waits
  rw [withdrawFrames_eq] at he
  obtain ⟨d, -, left⟩ := List.mem_filterMap.1 he
  unfold TxEntry.afterEnd at left
  split at left
  · split at left
    · rename_i carried
      cases left
      exact absurd (waits.symm.trans carried) Bool.false_ne_true
    · cases left
  · rename_i foreign
    cases left
    exact Bool.eq_false_iff.2 foreign

theorem Frameless.withdraw {t : ToteId} {q : List TxEntry} (h : Frameless t q) (u : ToteId) : Frameless t (withdrawFrames u q) := by
  intro e he waits
  rw [withdrawFrames_eq] at he
  obtain ⟨d, hd, left⟩ := List.mem_filterMap.1 he
  unfold TxEntry.afterEnd at left
  split at left
  · split at left
    · cases left
      exact h d hd waits
    · cases left
  · cases left
    exact h _ hd waits

theorem mem_enqueue {q : List TxEntry} {f : Frame} {e : TxEntry} (h : e ∈ (enqueue q f).1) : e.frame = f ∨ e ∈ q := by
  have placed {r : List TxEntry} (sub : ∀ d ∈ r, d ∈ q)
      (mem : e ∈ insertTx { frame := f, inCarriage := false, ownerEnded := false } r) : e.frame = f ∨ e ∈ q :=
    ((mem_insertTx _ _ _).1 mem).imp (congrArg TxEntry.frame) (sub e)
  unfold enqueue at h
  dsimp only at h
  split at h
  · exact placed (fun _ => id) h
  · split at h
    · rename_i lowest
      split at h
      · exact placed (splitLowest_sublist _ _ _ lowest).1.subset h
      · exact .inr h
    · exact .inr h

theorem Frameless.enqueue {t : ToteId} {q : List TxEntry} (h : Frameless t q) {f : Frame} (foreign : isContestFrame t f = false) :
    Frameless t (Machine.enqueue q f).1 := fun e he waits =>
  (mem_enqueue he).elim (fun new => (congrArg (isContestFrame t) new).trans foreign) fun old => h e old waits

/-- Inside the entry steps of a close the record of `t` has gone, and no frame of it waits. -/
structure Gone (t : ToteId) (s : State) : Prop where
  entry : s.closeEntry = true
  record : ∀ c ∈ s.contests, c.tote ≠ t
  frames : Frameless t s.queue

theorem Gone.of_withdrawn {s : State} (entry : s.closeEntry = true) (c : Contest) (n : Nat) :
    Gone c.tote (s.endContest c .withdrawn n) where
  entry := (Keeps.closeEntryIs true).endContest c _ n entry
  record := State.tote_ne_of_contestOf_none (s.endContest_gone c _ n)
  frames := by
    rw [State.endContest_queue entry, State.ended_kept (by simp)]
    exact .withdrawn c.tote s.queue

theorem Gone.endContest {t : ToteId} {s : State} (h : Gone t s) (c : Contest) (o : ContestOutcome) (n : Nat) :
    Gone t (s.endContest c o n) where
  entry := (Keeps.closeEntryIs true).endContest c o n h.entry
  record := (Keeps.noContest t).endContest c o n h.record
  frames := by
    rw [State.endContest_queue h.entry]
    rcases s.ended_queue c o n with queue | ⟨f, foreign, queue⟩
    · rw [queue]
      exact h.frames.withdraw c.tote
    · rw [queue]
      exact (h.frames.withdraw c.tote).enqueue (foreign t)

theorem Gone.endAll {t : ToteId} {s : State} (h : Gone t s) (o : ContestOutcome) (cs : List Contest) : Gone t (s.endAll o cs) :=
  KeepsFloor.foldl _ (fun c h => h.endContest c o c.slot) cs h

/-- Of the records withdrawn one after another none has come back. -/
theorem Gone.of_mem_withdrawn {s : State} (entry : s.closeEntry = true) {cs : List Contest} {c : Contest} (hc : c ∈ cs) :
    Gone c.tote (s.endAll .withdrawn cs) := by
  obtain ⟨before, after, rfl⟩ := List.append_of_mem hc
  rw [State.endAll, List.foldl_append, List.foldl_cons]
  exact (Gone.of_withdrawn ((Keeps.closeEntryIs true).endAll _ before entry) c c.slot).endAll _ after

theorem Gone.releaseSweep {t : ToteId} {s : State} (h : Gone t s) : Gone t s.releaseSweep :=
  KeepsFloor.foldl (P := Gone t) _ (fun {u} p h =>
    have tested := EntryQueue.releaseTest ⟨h.entry, rfl⟩ p
    ⟨tested.entry, (KeepsFloor.contestsAre u.contests).releaseTest p rfl ▸ h.record, tested.queue ▸ h.frames⟩) _ h

/-! ### The sweep of a hard close (R118, R154 step 1) -/

/-- From `s` to `u` no tote is newly PRESENTED, and no task goes out. -/
structure Sweeps (s u : State) : Prop where
  presented : ∀ k x, u.floor.presentedTote k = some x → s.floor.presentedTote k = some x
  order : ∀ k ∈ u.floor.presentation, k ∈ s.floor.presentation
  active : ∀ b, s.boundIn .active b = true → u.boundIn .active b = true

theorem Sweeps.refl (s : State) : Sweeps s s := ⟨fun _ _ => id, fun _ => id, fun _ => id⟩

theorem Sweeps.trans {s u v : State} (h : Sweeps s u) (k : Sweeps u v) : Sweeps s v :=
  ⟨fun p x hx => h.presented p x (k.presented p x hx), fun p hp => h.order p (k.order p hp), fun b hb => k.active b (h.active b hb)⟩

/-- With the lines as they are only the floor counts. -/
theorem Sweeps.of_floor {s u : State} (lines : u.lines = s.lines)
    (presented : ∀ k x, u.floor.presentedTote k = some x → s.floor.presentedTote k = some x)
    (order : u.floor.presentation = s.floor.presentation) : Sweeps s u :=
  ⟨presented, fun _ hk => order ▸ hk, fun b hb => by rwa [State.boundIn, State.lineOf, lines]⟩

/-- A port turned to another state presents nothing. -/
theorem Floor.presentedTote_updPort {fl : Floor} {p : Nat} {f : Port → Port} (num : ∀ q, (f q).num = q.num)
    (off : ∀ q, (f q).state ≠ .presented) {k : Nat} {x : Tote} (h : (fl.updPort p f).presentedTote k = some x) :
    k ≠ p ∧ fl.presentedTote k = some x := by
  by_cases here : k = p
  · obtain ⟨q, hq, presented, -⟩ := FloorForm.presented_port h
    rw [Floor.updPort_port _ _ _ _ num] at hq
    obtain ⟨r, -, rfl⟩ := Option.map_eq_some_iff.1 hq
    rw [if_pos here] at presented
    exact absurd presented (off r)
  · exact ⟨here, by rwa [Floor.updPort_presentedTote_ne fl here f num] at h⟩

theorem Floor.presentedTote_routeUpTo (n d : Nat) {fl : Floor} {k : Nat} {x : Tote} (h : (fl.routeUpTo n d).presentedTote k = some x) :
    fl.presentedTote k = some x := by
  induction n generalizing fl with
  | zero => exact h
  | succ n ih =>
      by_cases settled : fl.Settled
      · rwa [Floor.routeUpTo_settled _ _ settled] at h
      · obtain ⟨occupied, some⟩ := not_or.1 settled
        obtain ⟨y, rest, lane⟩ := List.exists_cons_of_ne_nil occupied
        obtain ⟨q, free⟩ := Option.ne_none_iff_exists'.1 some
        have head := ih h
        rw [Floor.routeHead_moves lane free] at head
        exact (Floor.presentedTote_updPort (f := Port.routed y d) (fun _ => rfl) (fun _ => nofun) head).2

theorem Sweeps.updPort (s : State) (p : Nat) {f : Port → Port} (num : ∀ q, (f q).num = q.num) (off : ∀ q, (f q).state ≠ .presented) :
    Sweeps s (s.updPort p f) :=
  .of_floor rfl (fun _ _ h => (Floor.presentedTote_updPort num off h).2) rfl

theorem Sweeps.route (s : State) : Sweeps s s.route :=
  .of_floor rfl (fun _ _ h => Floor.presentedTote_routeUpTo _ _ h) (s.floor.routeUpTo_frame _ _).1

theorem Sweeps.completionTest (s : State) : Sweeps s s.completionTest :=
  have same := SameTable.completionTest s
  .of_floor same.lines (fun _ _ h => same.floor ▸ h) (congrArg _ same.floor)

theorem Sweeps.grantTo (s : State) (p : Nat) : Sweeps s (s.grantTo p) := by
  unfold State.grantTo
  split
  · exact .refl s
  · rename_i q _
    split
    · exact .updPort s p (fun _ => rfl) fun _ => nofun
    · have vacate (u : State) : Sweeps u (u.updPort q.num Port.vacate) := .updPort u q.num (fun _ => rfl) fun _ => nofun
      unfold State.removeAtGrant
      split
      · exact vacate s
      · rename_i x _
        have written : Sweeps s (s.write x.releasedEntry) := .of_floor rfl (fun _ _ => id) rfl
        exact ((written.trans (vacate _)).trans (.completionTest _)).trans (.route _)

theorem Sweeps.grantHead (s : State) : Sweeps s s.grantHead := by
  unfold State.grantHead
  split
  · exact .refl s
  · rename_i p rest _
    split
    · have head : Sweeps s { s with floor := { s.floor with releaseWait := rest } } := .of_floor rfl (fun _ _ => id) rfl
      exact head.trans (.grantTo _ p)
    · exact .refl s

theorem Sweeps.grantUpTo (n : Nat) (s : State) : Sweeps s (s.grantUpTo n) := by
  induction n generalizing s with
  | zero => exact .refl s
  | succ n ih => exact (Sweeps.grantHead s).trans (ih s.grantHead)

/-- Returning RESERVED lines puts no task out. -/
theorem State.active_of_returned {s u : State} (bs : List BoundLine)
    (lines : u.lines = returnLines (bs.filter (s.boundIn .reserved)) s.lines) {b : BoundLine} (active : s.boundIn .active b = true) :
    u.boundIn .active b = true := by
  rw [State.boundIn_returned lines ?_]
  · exact active
  · intro named
    obtain ⟨c, hc, key⟩ := List.mem_map.1 named
    have same : (fun l : Line => l.isBound c) = fun l => l.isBound b := funext fun l => by
      rw [Bool.eq_iff_iff, Line.isBound_iff, Line.isBound_iff, key]
    obtain ⟨l, found, reserved⟩ := (State.boundIn_iff s _ c).1 (List.mem_filter.1 hc).2
    obtain ⟨m, found', lit⟩ := (State.boundIn_iff s _ b).1 active
    rw [State.lineOf, same] at found
    cases found.symm.trans found'
    cases reserved.symm.trans lit

/-- The bench with a tote sent to RELEASE_WAIT, before room is tested (R111). -/
def State.waited (s : State) (p : Nat) (x : Tote) (c : ReleaseCause) : State :=
  { s with lines := returnLines (x.bound.filter (s.boundIn .reserved)) s.lines, floor := s.floor.waited p c }

theorem Sweeps.waited (s : State) (p : Nat) (x : Tote) (c : ReleaseCause) : Sweeps s (s.waited p x c) where
  presented _ _ h := (Floor.presentedTote_updPort (f := Port.waited c) (fun _ => rfl) (fun _ => nofun) h).2
  order _ hk := List.mem_of_mem_filter hk
  active _ hb := State.active_of_returned x.bound rfl hb

/-- The tote at port `p`, while PRESENTED, has a lit task. -/
def State.LitAt (s : State) (p : Nat) : Prop :=
  p ∈ s.floor.presentation → ∀ x, s.floor.presentedTote p = some x → s.litOn x = true

theorem State.LitAt.sweeps {s u : State} {p : Nat} (h : s.LitAt p) (k : Sweeps s u) : u.LitAt p := fun hp x hx => by
  obtain ⟨b, hb, active⟩ := List.any_eq_true.1 (h (k.order p hp) x (k.presented p x hx))
  exact List.any_eq_true.2 ⟨b, hb, k.active b active⟩

theorem State.releaseCause_hard {s : State} (hard : s.mode = .closingHard) (x : Tote) : ∃ c, s.releaseCause x false = some c := by
  unfold State.releaseCause
  rw [hard]
  split
  · exact ⟨_, rfl⟩
  · split <;> exact ⟨_, rfl⟩

/-- In CLOSING_HARD a release test leaves a PRESENTED tote at its port only with a lit task (R110). -/
theorem State.releaseTest_hard {s : State} (hard : s.mode = .closingHard) (p : Nat) :
    Sweeps s (s.releaseTest p) ∧ (s.releaseTest p).LitAt p := by
  cases presented : s.floor.presentedTote p with
  | none =>
      have still : s.releaseTest p = s := by
        unfold State.releaseTest
        rw [presented]
      rw [still]
      exact ⟨.refl s, fun _ x hx => nomatch presented.symm.trans hx⟩
  | some x =>
      cases lit : s.litOn x with
      | true =>
          rw [State.releaseTest_lit presented lit]
          refine ⟨.refl s, fun _ y hy => ?_⟩
          cases presented.symm.trans hy
          exact lit
      | false =>
          obtain ⟨c, cause⟩ := State.releaseCause_hard hard x
          have granted := Sweeps.grantUpTo (s.waited p x c).floor.releaseWait.length (s.waited p x c)
          rw [State.releaseTest_leaves presented lit cause, State.toReleaseWait_eq]
          refine ⟨(Sweeps.waited s p x c).trans granted, fun hp => ?_⟩
          simpa [State.waited, Floor.waited] using granted.order p hp

/-- The sweep leaves every PRESENTED tote with a lit task. -/
theorem State.foldl_releaseTest_hard {r : Nat} (ps : List Nat) {s : State} (closing : Closing .closingHard r s) :
    Sweeps s (ps.foldl State.releaseTest s) ∧ ∀ p ∈ ps, (ps.foldl State.releaseTest s).LitAt p := by
  induction ps generalizing s with
  | nil => exact ⟨.refl s, nofun⟩
  | cons p ps ih =>
      obtain ⟨step, here⟩ := State.releaseTest_hard closing.mode p
      obtain ⟨rest, later⟩ := ih ((Closing.keeps _ r).releaseTest p closing)
      refine ⟨step.trans rest, fun k hk => ?_⟩
      rcases List.mem_cons.1 hk with rfl | hk
      · exact here.sweeps rest
      · exact later k hk

theorem State.releaseSweep_lit {r : Nat} {s : State} (closing : Closing .closingHard r s) :
    ∀ y ∈ s.releaseSweep.presentedTotes, s.releaseSweep.litOn y.2 = true := by
  intro y hy
  obtain ⟨sweeps, lit⟩ := State.foldl_releaseTest_hard s.floor.presentation closing
  obtain ⟨p, hp, shown⟩ := List.mem_filterMap.1 hy
  obtain ⟨x, presented, rfl⟩ := Option.map_eq_some_iff.1 shown
  exact lit p (sweeps.order p hp) hp x presented

end Sys2Proof.Machine
end

section
/-! SUPPORT. A close entered, from the REPLY to the completion (R149 to R157, log 15), and the records it leaves (R152, R153); and the
statement. -/

open Sys2Proof Sys2Proof.Machine

namespace Sys2Proof.Machine

/-! ### The completion test (R156) -/

theorem Mode.closing_iff (m : Mode) : m.closing = true ↔ m = .closingSoft ∨ m = .closingHard := by
  cases m <;> simp [Mode.closing]

theorem State.closeComplete_iff (s : State) :
    s.closeComplete = true ↔
      s.mode.closing = true ∧ s.floor.heldTotes = [] ∧ s.contests = [] ∧ s.floor.releaseLane = [] := by
  simp [State.closeComplete, and_assoc]

section
variable {s : State}

theorem State.completionTest_incomplete (incomplete : s.closeComplete = false) : s.completionTest = s :=
  if_neg (by simp [incomplete])

theorem State.completionTest_complete (complete : s.closeComplete = true) (entered : s.closeEntry = false) :
    s.completionTest = s.completeClose := if_pos (by simp [complete, entered])

/-- CLOSED, with nothing left on the bench and nobody to answer. -/
structure State.Closed (s : State) : Prop where
  mode : s.mode = .closed
  requester : s.requester = none
  held : s.floor.heldTotes = []
  contests : s.contests = []
  releaseLane : s.floor.releaseLane = []

theorem State.completionTest_closed (complete : s.closeComplete = true) (entered : s.closeEntry = false) : s.completionTest.Closed := by
  obtain ⟨-, held, contests, lane⟩ := s.closeComplete_iff.1 complete
  have same := SameTable.completionTest s
  have steps : s.completionTest = { (s.write (.mode s.mode .closed)).queueQuiet with mode := .closed, requester := none } :=
    (State.completionTest_complete complete entered).trans (KeepsFloor.completeClose_eq s)
  exact ⟨congrArg State.mode steps, congrArg State.requester steps, same.floor ▸ held, same.contests.trans contests,
    same.floor ▸ lane⟩

theorem Frameless.completionTest {t : ToteId} (h : Frameless t s.queue) : Frameless t s.completionTest.queue := by
  unfold State.completionTest
  split
  · change Frameless t (State.queueQuiet (State.write { s with mode := .closed } (.mode s.mode .closed))).queue
    unfold State.queueQuiet
    split
    · exact h
    · rw [State.queueTo, State.queueFrame_queue]
      exact Frameless.enqueue h rfl
  · exact h

end

/-! ### The REPLY and the completion (R151, log 15) -/

section
variable {u : State} {m : Mode} {r : Nat}

theorem State.endClose_eq (mode : u.mode = m) (closing : m.closing = true) (src : Nat) (a : ModeAction) :
    u.endClose src a = State.completionTest
      { u.reply src (.modeAction a .accepted
          (if u.floor.heldTotes = [] ∧ u.contests = [] ∧ u.floor.releaseLane = [] then .closed else m)) with closeEntry := false } := by
  have complete : u.closeComplete = true ↔ u.floor.heldTotes = [] ∧ u.contests = [] ∧ u.floor.releaseLane = [] := by
    rw [State.closeComplete_iff, mode, and_iff_right closing]
  unfold State.endClose State.modeReply
  rw [mode, if_congr complete rfl rfl]

theorem SameTable.endClose (u : State) (src : Nat) (a : ModeAction) : SameTable u (u.endClose src a) := by
  have replied : SameTable u (u.modeReply src a) := .queueFrame u _
  have entered : SameTable u { u.modeReply src a with closeEntry := false } :=
    ⟨replied.lines, replied.contests, replied.floor, replied.task, replied.cfg⟩
  exact entered.trans (.completionTest _)

/-- A close stands with its requester, or is complete. -/
theorem State.endClose_stands (h : Closing m r u) (src : Nat) (a : ModeAction) :
    (u.endClose src a).mode = m ∧ (u.endClose src a).requester = some r ∨ (u.endClose src a).Closed := by
  have replied : Closing m r (u.modeReply src a) := (Closing.keeps m r).reply _ _ h
  unfold State.endClose
  cases complete : State.closeComplete { u.modeReply src a with closeEntry := false } with
  | true => exact .inr (State.completionTest_closed complete rfl)
  | false =>
      rw [State.completionTest_incomplete complete]
      exact .inl ⟨replied.mode, replied.requester⟩

theorem Gone.endClose {t : ToteId} (h : Gone t u) (src : Nat) (a : ModeAction) :
    (u.endClose src a).contestOf t = none ∧ Frameless t (u.endClose src a).queue := by
  refine ⟨State.contestOf_none ((SameTable.endClose u src a).contests ▸ h.record), Frameless.completionTest ?_⟩
  change Frameless t (u.modeReply src a).queue
  rw [State.modeReply, State.reply, State.queueTo, State.queueFrame_queue]
  exact h.frames.enqueue rfl

theorem State.queueFrame_closeEntry (s : State) (b : Bool) (f : Frame) :
    { s.queueFrame f with closeEntry := b } = State.queueFrame { s with closeEntry := b } f := by
  unfold State.queueFrame
  dsimp only
  split <;> rfl

end

/-! ### The records a close takes out -/

/-- Records that end one after another, in any order, are taken out of the table. -/
theorem State.endAll_filter {s : State} (once : (s.contests.map (·.tote)).Nodup) (o : ContestOutcome) {p : Contest → Bool}
    {cs : List Contest} (those : cs.Perm (s.contests.filter p)) : (s.endAll o cs).contests = s.contests.filter fun c => !p c := by
  rw [State.endAll_contests]
  refine List.filter_congr fun c hc => ?_
  have named : c.tote ∈ cs.map (·.tote) ↔ p c = true := by
    rw [(those.map _).mem_iff]
    refine ⟨fun h => ?_, fun h => List.mem_map.2 ⟨c, List.mem_filter.2 ⟨hc, h⟩, rfl⟩⟩
    obtain ⟨d, hd, same⟩ := List.mem_map.1 h
    obtain ⟨mem, ends⟩ := List.mem_filter.1 hd
    exact List.inj_on_of_nodup_map once mem hc same ▸ ends
  rw [decide_not]
  exact congrArg not (Bool.eq_iff_iff.2 (decide_eq_true_iff.trans named))

/-- The bench in a close to `m`, the records in BID_QUEUED or WON withdrawn (R152, R153 steps 1 to 3). -/
def State.closeWithdrawn (s : State) (m : Mode) (src : Nat) : State :=
  (s.beginClose m src).endAll .withdrawn (s.contests.filter s.withdraws)

/-- The bench in a hard close, its claims given back (R153 step 4). -/
def State.closeFreed (s : State) (src : Nat) : State := (s.closeWithdrawn .closingHard src).endAll .relinquished s.nearest

theorem State.not_claimed_of_withdraws {s : State} {c : Contest} (h : s.withdraws c = true) : c.state.claimed = false := by
  simp only [State.withdraws, Bool.and_eq_true, Bool.or_eq_true, beq_iff_eq] at h
  rcases h.1 with state | state <;> rw [state] <;> rfl

section
variable {s : State} (once : (s.contests.map (·.tote)).Nodup)
include once

theorem State.closeWithdrawn_contests (m : Mode) (src : Nat) :
    (s.closeWithdrawn m src).contests = s.contests.filter fun c => !s.withdraws c :=
  State.endAll_filter (s := s.beginClose m src) once .withdrawn (.refl _)

theorem State.closeWithdrawn_once (m : Mode) (src : Nat) : ((s.closeWithdrawn m src).contests.map (·.tote)).Nodup := by
  rw [State.closeWithdrawn_contests once]
  exact once.sublist (List.filter_sublist.map _)

/-- The withdrawals leave the claims, and their order. -/
theorem State.closeWithdrawn_nearest (m : Mode) (src : Nat) : (s.closeWithdrawn m src).nearest = s.nearest := by
  have distance (n : Nat) : (s.closeWithdrawn m src).distance n = s.distance n := by
    have tracker : (s.closeWithdrawn m src).tracker = s.tracker := (Keeps.trackerIs s.tracker).endAll _ _ rfl
    have cfg : (s.closeWithdrawn m src).cfg = s.cfg :=
      ((SameImage.keeps s).endAll (s := s.beginClose m src) _ _ ⟨rfl, rfl, rfl⟩).cfg
    rw [State.distance, tracker, cfg, State.distance]
  rw [State.nearest, State.sortNear_congr distance, State.closeWithdrawn_contests once, List.filter_filter, State.nearest]
  congr 1
  refine List.filter_congr fun c _ => ?_
  cases withdraws : s.withdraws c with
  | true => rw [State.not_claimed_of_withdraws withdraws]; rfl
  | false => simp

theorem State.closeFreed_contests (src : Nat) :
    (s.closeFreed src).contests = s.contests.filter fun c => !s.withdraws c && !c.state.claimed := by
  have claims : s.nearest.Perm ((s.closeWithdrawn .closingHard src).contests.filter fun c => c.state.claimed) :=
    State.closeWithdrawn_nearest once .closingHard src ▸ State.sortNear_perm _ _
  rw [State.closeFreed, State.endAll_filter (State.closeWithdrawn_once once .closingHard src) _ claims,
    State.closeWithdrawn_contests once, List.filter_filter]
  exact List.filter_congr fun c _ => Bool.and_comm _ _

theorem State.enterSoft_eq (src : Nat) : s.enterSoft src = (s.closeWithdrawn .closingSoft src).endClose src .closeSoft := by
  rw [State.enterSoft, State.withdrawAllQueued_eq (s := s.beginClose .closingSoft src) once]
  rfl

theorem State.enterHard_eq (src : Nat) : s.enterHard src = (s.closeFreed src).releaseSweep.endClose src .closeHard := by
  have withdrawn : (s.beginClose .closingHard src).withdrawAllQueued = s.closeWithdrawn .closingHard src :=
    State.withdrawAllQueued_eq (s := s.beginClose .closingHard src) once
  rw [State.enterHard, withdrawn, State.relinquishAll_eq (State.closeWithdrawn_once once _ src),
    State.closeWithdrawn_nearest once, State.closeFreed]

theorem State.enterSoft_contests (src : Nat) : (s.enterSoft src).contests = s.contests.filter fun c => !s.withdraws c := by
  rw [State.enterSoft_eq once, (SameTable.endClose _ _ _).contests, State.closeWithdrawn_contests once]

theorem State.enterHard_contests (src : Nat) :
    (s.enterHard src).contests = s.contests.filter fun c => !s.withdraws c && !c.state.claimed := by
  rw [State.enterHard_eq once, (SameTable.endClose _ _ _).contests, ← State.closeFreed_contests once]
  have keeps := KeepsFloor.contestsAre (s.closeFreed src).contests
  exact KeepsFloor.foldl (P := fun u => u.contests = (s.closeFreed src).contests) _ (fun p h => keeps.releaseTest p h) _ rfl

/-- The records withdrawn have gone, with the frames of them that wait. -/
theorem State.enterSoft_gone {c : Contest} (hc : c ∈ s.contests) (withdraws : s.withdraws c = true) (src : Nat) :
    (s.enterSoft src).contestOf c.tote = none ∧ Frameless c.tote (s.enterSoft src).queue := by
  rw [State.enterSoft_eq once]
  exact (Gone.of_mem_withdrawn rfl (List.mem_filter.2 ⟨hc, withdraws⟩)).endClose src _

theorem State.enterHard_gone {c : Contest} (hc : c ∈ s.contests) (withdraws : s.withdraws c = true) (src : Nat) :
    (s.enterHard src).contestOf c.tote = none ∧ Frameless c.tote (s.enterHard src).queue := by
  rw [State.enterHard_eq once]
  exact ((Gone.of_mem_withdrawn rfl (List.mem_filter.2 ⟨hc, withdraws⟩)).endAll _ _).releaseSweep.endClose src _

end

/-- The claims given back are journalled in their order (R153 step 4, R83). -/
theorem State.closeFreed_claimEnds (s : State) (src : Nat) :
    (s.nearest.map fun c => EntryBody.claimEnd c.tote .relinquished c.key.score).Sublist
      (((s.closeFreed src).journal.entries.drop s.journal.entries.length).map (·.body)) := by
  have due : ∀ c ∈ s.nearest, claimEndDue c.state .relinquished = true := fun c hc => by
    refine (claimEndDue_iff _ _).2 ⟨?_, .inr (.inr rfl)⟩
    exact ((ContestState.claimed_iff _).1 (State.mem_nearest.1 hc).2).imp_right .inl
  obtain ⟨before, withdrawn⟩ : s.journal.entries <+: (s.closeWithdrawn .closingHard src).journal.entries :=
    (Keeps.journalGrows s.journal.entries).endAll (s := s.beginClose .closingHard src) _ _ (Journal.write_grows _ _ _)
  obtain ⟨es, freed, written⟩ := State.endAll_claimEnds .relinquished s.nearest due (s.closeWithdrawn .closingHard src)
  rw [State.closeFreed, freed, ← withdrawn, List.append_assoc, List.drop_left, List.map_append]
  exact written.trans (List.sublist_append_right _ _)

theorem Closing.freed (s : State) (src : Nat) : Closing .closingHard src (s.closeFreed src) :=
  have keeps := Closing.keeps .closingHard src
  keeps.endAll _ _ (keeps.endAll _ _ (.begin s .closingHard src))

theorem Closing.swept (s : State) (src : Nat) : Closing .closingHard src (s.closeFreed src).releaseSweep :=
  (Closing.keeps .closingHard src).releaseSweep (.freed s src)

/-! ### The commands -/

section
variable {s : State} {d : Dest} (hs : s.live = true) (addressed : s.addressed d = true)
include hs addressed

theorem exec_closeSoft_enters (opened : s.mode = .opened) : exec (.closeSoft d) s = .next (s.clearReceived.enterSoft d.src) := by
  refine (taken_of_live hs fun x => x.clearReceived.takeCloseSoft d).trans (congrArg _ ((if_pos addressed).trans ?_))
  rw [show s.clearReceived.mode = .opened from opened]

theorem exec_closeHard_enters (running : s.mode = .opened ∨ s.mode = .closingSoft) :
    exec (.closeHard d) s = .next (s.clearReceived.enterHard d.src) := by
  refine (taken_of_live hs fun x => x.clearReceived.takeCloseHard d).trans (congrArg _ ((if_pos addressed).trans ?_))
  rcases running with mode | mode <;> rw [show s.clearReceived.mode = _ from mode]

end

/-! ### What is left -/

/-- From `s` to `t` the records that a close withdraws have gone with their waiting frames, and no other but a claim has. -/
structure Withdraws (s t : State) : Prop where
  stays : ∀ c ∈ s.contests, s.withdraws c = false → c.state.claimed = false → c ∈ t.contests
  gone : ∀ c ∈ s.contests, s.withdraws c = true → t.contestOf c.tote = none ∧ Frameless c.tote t.queue

section
variable {s : State} (once : (s.contests.map (·.tote)).Nodup) (src : Nat)
include once

theorem State.mem_enterSoft_contests (c : Contest) : c ∈ (s.enterSoft src).contests ↔ c ∈ s.contests ∧ s.withdraws c = false := by
  rw [State.enterSoft_contests once, List.mem_filter, Bool.not_eq_true']

theorem State.mem_enterHard_contests (c : Contest) :
    c ∈ (s.enterHard src).contests ↔ c ∈ s.contests ∧ s.withdraws c = false ∧ c.state.claimed = false := by
  rw [State.enterHard_contests once, List.mem_filter, Bool.and_eq_true, Bool.not_eq_true', Bool.not_eq_true']

theorem Withdraws.enterSoft : Withdraws s (s.enterSoft src) where
  stays c hc idle _ := (State.mem_enterSoft_contests once src c).2 ⟨hc, idle⟩
  gone _ hc withdraws := State.enterSoft_gone once hc withdraws src

theorem Withdraws.enterHard : Withdraws s (s.enterHard src) where
  stays c hc idle unclaimed := (State.mem_enterHard_contests once src c).2 ⟨hc, idle, unclaimed⟩
  gone _ hc withdraws := State.enterHard_gone once hc withdraws src

/-- After a hard close every tote still PRESENTED has an ACTIVE line (R118). -/
theorem State.enterHard_lit :
    ∀ y ∈ (s.enterHard src).presentedTotes, ∃ b ∈ y.2.bound, (s.enterHard src).boundIn .active b = true := by
  rw [State.enterHard_eq once]
  intro y hy
  have same := SameTable.endClose (s.closeFreed src).releaseSweep src .closeHard
  rw [State.presentedTotes, same.floor] at hy
  obtain ⟨b, hb, active⟩ := List.any_eq_true.1 (State.releaseSweep_lit (Closing.freed s src) y hy)
  exact ⟨b, hb, by rwa [State.boundIn, State.lineOf, same.lines]⟩

end

/-- With no contest record and a tote held a soft close changes mode, requester and journal, and answers. -/
theorem State.enterSoft_held {s : State} (none : s.contests = []) (held : s.floor.heldTotes ≠ []) (src : Nat) :
    s.enterSoft src =
      State.reply { s.beginClose .closingSoft src with closeEntry := false } src (.modeAction .closeSoft .accepted .closingSoft) := by
  have still : (s.beginClose .closingSoft src).withdrawAllQueued = s.beginClose .closingSoft src := by
    rw [State.withdrawAllQueued, show (s.beginClose .closingSoft src).contests = [] from none]
    rfl
  rw [State.enterSoft, still, State.endClose_eq rfl rfl, if_neg fun empty => held empty.1, State.reply, State.queueTo,
    State.queueFrame_closeEntry, State.completionTest_incomplete]
  · rfl
  · rw [Bool.eq_false_iff, ne_eq, State.closeComplete_iff, State.queueFrame_floor]
    exact fun complete => held complete.2.1

/-! ### The statement's words -/

theorem State.frameInCarriage_iff (s : State) (t : ToteId) :
    s.frameInCarriage t = true ↔ ∃ e ∈ s.queue, e.inCarriage = true ∧ e.ownerEnded = false ∧
      (e.frame.payload = .bid t ∨ e.frame.payload = .take t true ∨ e.frame.payload = .take t false) := by
  simp [State.frameInCarriage, List.any_eq_true, and_assoc, isContestFrame_iff]

theorem State.withdraws_iff (s : State) (c : Contest) :
    s.withdraws c = true ↔ (c.state = .bidQueued ∨ c.state = .won) ∧ s.frameInCarriage c.tote = false := by
  simp [State.withdraws]

theorem isContestFrame_eq (t : ToteId) (f : Frame) :
    isContestFrame t f = (f.payload == .bid t || f.payload == .take t true || f.payload == .take t false) := by
  rw [Bool.eq_iff_iff, isContestFrame_iff]
  simp [or_assoc]

theorem State.clearReceived_nearest (s : State) : s.clearReceived.nearest = s.nearest :=
  State.sortNear_congr (s := s) (u := s.clearReceived) (fun _ => rfl) _

end Sys2Proof.Machine

/-- Settles O46: the entry steps one after another (`State.enterSoft_eq`, `State.enterHard_eq`), and what they leave
(`State.endClose_stands`, `State.enterHard_lit`, `Withdraws`). -/
theorem closeEntered : Obligations.CloseEntered := by
  refine ⟨fun s d hs first last once => ?_, fun s d hs first last => ?_, fun s d hs first last running once => ?_,
    fun s t d i hs first last once entered next => ?_,
    fun s => ⟨fun rests => ?_, fun r closing entered held contests lane station => ?_⟩⟩
  · intro begun queued withdrawn finished
    have addressed : s.addressed d = true := (State.addressed_iff _ _).2 ⟨first, last⟩
    have withdrawn_eq (m : Mode) : withdrawn m = s.clearReceived.closeWithdrawn m d.src := by
      simp only [withdrawn, queued, ← isContestFrame_eq]
      rfl
    refine ⟨fun opened => ?_, fun running => ⟨s.nearest, ?_, ?_, ?_⟩⟩
    · have closing : Closing .closingSoft d.src (s.clearReceived.closeWithdrawn .closingSoft d.src) :=
        (Closing.keeps _ _).endAll _ _ (.begin _ _ _)
      rw [exec_closeSoft_enters hs addressed opened, State.enterSoft_eq (s := s.clearReceived) once, State.endClose_eq closing.mode rfl,
        withdrawn_eq]
    · simp only [← ContestState.claimed_eq]
      exact s.sortNear_perm _
    · exact (s.sortNear_sorted _).imp fun before => before.mono List.filter_sublist
    · intro freed
      have freed_eq : freed = s.clearReceived.closeFreed d.src := by
        simp only [freed, withdrawn_eq, State.closeFreed, State.clearReceived_nearest]
        rfl
      rw [freed_eq]
      refine ⟨?_, s.clearReceived_nearest ▸ s.clearReceived.closeFreed_claimEnds d.src⟩
      rw [exec_closeHard_enters hs addressed running, State.enterHard_eq (s := s.clearReceived) once,
        State.endClose_eq (Closing.swept _ _).mode rfl]
      rfl
  · intro done
    have addressed : s.addressed d = true := (State.addressed_iff _ _).2 ⟨first, last⟩
    have closed {t : State} (h : t.Closed) : done t := ⟨h.mode, h.requester, h.held, h.contests, h.releaseLane⟩
    have soft := Closing.keeps .closingSoft d.src
    have hard := Closing.keeps .closingHard d.src
    refine ⟨fun opened => ⟨_, exec_closeSoft_enters hs addressed opened, State.endClose_closeEntry _ _ _, ?_⟩,
      fun running => ⟨_, exec_closeHard_enters hs addressed running, State.endClose_closeEntry _ _ _, ?_⟩,
      fun opened none held => ?_⟩
    · exact (State.endClose_stands (soft.withdrawAllQueued (.begin _ _ _)) _ _).imp_right closed
    · exact (State.endClose_stands (hard.releaseSweep (hard.relinquishAll (hard.withdrawAllQueued (.begin _ _ _)))) _ _).imp_right closed
    · rw [exec_closeSoft_enters hs addressed opened, State.enterSoft_held (s := s.clearReceived) none held, ← opened]
      rfl
  · have addressed : s.addressed d = true := (State.addressed_iff _ _).2 ⟨first, last⟩
    have mem := State.mem_enterHard_contests (s := s.clearReceived) once d.src
    refine ⟨_, exec_closeHard_enters hs addressed running, fun c hc => ?_, fun c hc state => (mem c).2 ⟨hc, ?_⟩,
      State.enterHard_lit (s := s.clearReceived) once d.src⟩
    · obtain ⟨stood, -, unclaimed⟩ := (mem c).1 hc
      refine ⟨stood, fun state => ?_, fun state => ?_⟩
      all_goals
        rw [state] at unclaimed
        cases unclaimed
    · rcases state with state | state <;> simp [State.withdraws, state, ContestState.claimed]
  · intro own
    have addressed : s.addressed d = true := (State.addressed_iff _ _).2 ⟨first, last⟩
    have left : Withdraws s t ∧ (i = .closeSoft d → ∀ c ∈ s.contests, s.withdraws c = false → c ∈ t.contests) := by
      rcases entered with ⟨rfl, opened⟩ | ⟨rfl, running⟩
      · obtain rfl := Host.Outcome.next.inj ((exec_closeSoft_enters hs addressed opened).symm.trans next)
        have withdraws := Withdraws.enterSoft (s := s.clearReceived) once d.src
        have stays := State.mem_enterSoft_contests (s := s.clearReceived) once d.src
        exact ⟨⟨withdraws.stays, withdraws.gone⟩, fun _ c hc idle => (stays c).2 ⟨hc, idle⟩⟩
      · obtain rfl := Host.Outcome.next.inj ((exec_closeHard_enters hs addressed running).symm.trans next)
        have withdraws := Withdraws.enterHard (s := s.clearReceived) once d.src
        exact ⟨⟨withdraws.stays, withdraws.gone⟩, nofun⟩
    obtain ⟨withdraws, soft⟩ := left
    refine ⟨fun c hc state => ⟨fun sending => ?_, fun silent => ?_⟩, fun asked c hc unqueued unwon => ?_⟩
    · refine withdraws.stays c hc (Bool.eq_false_iff.2 fun h => ?_) (by rcases state with state | state <;> rw [state] <;> rfl)
      exact Bool.false_ne_true (((s.withdraws_iff c).1 h).2.symm.trans ((s.frameInCarriage_iff c.tote).2 sending))
    · have free : s.frameInCarriage c.tote = false := Bool.eq_false_iff.2 fun h =>
        have ⟨e, he, inCarriage, stands, mine⟩ := (s.frameInCarriage_iff c.tote).1 h
        silent e he inCarriage stands mine
      obtain ⟨gone, frameless⟩ := withdraws.gone c hc ((s.withdraws_iff c).2 ⟨state, free⟩)
      exact ⟨gone, fun e he waits mine =>
        Bool.false_ne_true ((frameless e he waits).symm.trans ((isContestFrame_iff c.tote e.frame).2 mine))⟩
    · exact soft asked c hc (Bool.eq_false_iff.2 fun h => ((s.withdraws_iff c).1 h).1.elim unqueued unwon)
  · refine State.completionTest_incomplete (Bool.eq_false_iff.2 fun complete => ?_)
    obtain ⟨closing, held, contests, lane⟩ := s.closeComplete_iff.1 complete
    rcases rests with mode | mode | some | some | some
    · rw [mode] at closing
      cases closing
    · rw [mode] at closing
      cases closing
    · exact some held
    · exact some contests
    · exact some lane
  · rw [State.completionTest_complete (s.closeComplete_iff.2 ⟨(Mode.closing_iff _).2 closing, held, contests, lane⟩) entered]
    unfold State.completeClose State.queueQuiet
    simp only [State.write_fields, station]
    rfl
end

section
/-! SUPPORT. The task choice (R124 to R128), the short key (R129) and the wrong-put pattern (R130, R131); and their statements. -/

namespace Sys2Proof.Machine

/-! ### Lines that are taskable and totes within their warning (R124, R127) -/

/-- An exposure runs down in the classes other than AMBIENT, and in none of a tote without class (R93). -/
theorem cold_any_iff (c : Option TempClass) : c.any TempClass.cold = true ↔ c = some .chilled ∨ c = some .frozen := by
  rcases c with _ | _ | _ | _ <;> simp [TempClass.cold]

theorem not_cold_any_iff (c : Option TempClass) : c.any TempClass.cold = false ↔ c = none ∨ c = some .ambient := by
  rcases c with _ | _ | _ | _ <;> simp [TempClass.cold]

section
variable (s : State) (x : Tote)

theorem State.putOpen_iff (p : Nat) : s.putOpen p = true ↔ ∃ q, s.put p = some q ∧ q.state = .opened := by
  rw [State.putOpen, Option.any_eq_true]
  simp only [beq_iff_eq]

theorem State.taskable_iff (b : BoundLine) :
    s.taskable x b = true ↔
      (∃ l, s.lineOf b = some l ∧ l.state = .reserved ∧ ∃ q, s.put l.put = some q ∧ q.state = .opened) ∧
        (x.cls = none ∨ x.cls = some .ambient ∨ 0 < x.exposure.getD 0) := by
  rw [State.taskable, Bool.and_eq_true, Option.any_eq_true, Bool.or_eq_true, Bool.not_eq_true', not_cold_any_iff,
    decide_eq_true_iff, or_assoc]
  simp only [Bool.and_eq_true, beq_iff_eq, State.putOpen_iff]

theorem State.hasTaskable_iff : s.hasTaskable x = true ↔ ∃ b ∈ x.bound, s.taskable x b = true := List.any_eq_true

theorem State.warned_iff :
    s.warned x = true ↔
      (x.cls = some .chilled ∨ x.cls = some .frozen) ∧ 0 < x.exposure.getD 0 ∧ x.exposure.getD 0 ≤ s.cfg.eWarn := by
  rw [State.warned, Bool.and_eq_true, Bool.and_eq_true, cold_any_iff, decide_eq_true_iff, decide_eq_true_iff, and_assoc]

end

/-! ### The tote chosen (R127) -/

theorem leastExposed_eq_none {xs : List (Nat × Tote)} (h : leastExposed xs = none) : xs = [] := by
  cases xs with
  | nil => rfl
  | cons x xs =>
      unfold leastExposed at h
      split at h
      · cases h
      · split at h <;> cases h

/-- The tote of least exposure stands behind totes of more exposure and before totes of no less (R127 step 1). -/
theorem leastExposed_splits {xs : List (Nat × Tote)} {c : Nat × Tote} (h : leastExposed xs = some c) :
    ∃ before after, xs = before ++ c :: after ∧
      (∀ y ∈ before, c.2.exposure.getD 0 < y.2.exposure.getD 0) ∧
      ∀ y ∈ after, c.2.exposure.getD 0 ≤ y.2.exposure.getD 0 := by
  induction xs generalizing c with
  | nil => cases h
  | cons x xs ih =>
      unfold leastExposed at h
      split at h
      case h_1 none =>
        cases h
        exact ⟨[], xs, rfl, by simp, by simp [leastExposed_eq_none none]⟩
      case h_2 y least =>
        obtain ⟨before, after, rfl, more, noLess⟩ := ih least
        split at h
        case isTrue less =>
          cases h
          exact ⟨x :: before, after, rfl, List.forall_mem_cons.2 ⟨less, more⟩, noLess⟩
        case isFalse notLess =>
          cases h
          have first := Nat.le_of_not_lt notLess
          exact ⟨[], _, rfl, by simp, List.forall_mem_append.2
            ⟨fun z hz => first.trans (more z hz).le, List.forall_mem_cons.2 ⟨first, fun z hz => first.trans (noLess z hz)⟩⟩⟩

/-- A split of the elements kept by a filter is one of the whole list, where those before that are kept are the ones of the split. -/
theorem splits_of_filter {α : Type} {p : α → Bool} {l before after : List α} {c : α} (h : l.filter p = before ++ c :: after) :
    ∃ before' after', l = before' ++ c :: after' ∧ ∀ y ∈ before', p y = true → y ∈ before := by
  obtain ⟨first, rest, rfl, kept, left⟩ := List.filter_eq_append_iff.1 h
  obtain ⟨skipped, after', rfl, none, -, -⟩ := List.filter_eq_cons_iff.1 left
  refine ⟨first ++ skipped, after', (List.append_assoc _ _ _).symm, List.forall_mem_append.2 ⟨fun y hy py => ?_, fun y hy py => ?_⟩⟩
  · exact kept ▸ List.mem_filter.2 ⟨hy, py⟩
  · exact absurd py (none y hy)

section
variable (s : State)

/-- The presented totes with a taskable line, in presentation order. -/
def State.taskableTotes : List (Nat × Tote) := s.presentedTotes.filter fun x => s.hasTaskable x.2

/-- Those of them within their exposure warning. -/
def State.warnedTotes : List (Nat × Tote) := s.taskableTotes.filter fun x => s.warned x.2

variable {s} {c y : Nat × Tote}

theorem State.mem_taskableTotes : y ∈ s.taskableTotes ↔ y ∈ s.presentedTotes ∧ s.hasTaskable y.2 = true := List.mem_filter

theorem State.mem_warnedTotes : y ∈ s.warnedTotes ↔ y ∈ s.taskableTotes ∧ s.warned y.2 = true := List.mem_filter

/-- The two steps of R127: the least exposed of the warned, or without one the first. -/
theorem State.chosenTote_cases (h : s.chosenTote = some c) :
    leastExposed s.warnedTotes = some c ∨ s.warnedTotes = [] ∧ s.taskableTotes.head? = some c := by
  unfold State.chosenTote at h
  dsimp only at h
  split at h
  case h_1 x least => exact .inl (least.trans h)
  case h_2 none => exact .inr ⟨leastExposed_eq_none none, h⟩

theorem State.chosenTote_mem (h : s.chosenTote = some c) : c ∈ s.taskableTotes := by
  rcases State.chosenTote_cases h with least | ⟨-, head⟩
  · exact (State.mem_warnedTotes.1 (TableForm.leastExposed_mem least)).1
  · exact List.mem_of_mem_head? head

/-- With a warned tote the choice is warned, and of least exposure. -/
theorem State.chosenTote_least (h : s.chosenTote = some c) (hy : y ∈ s.warnedTotes) :
    s.warned c.2 = true ∧ c.2.exposure.getD 0 ≤ y.2.exposure.getD 0 := by
  rcases State.chosenTote_cases h with least | ⟨none, -⟩
  · refine ⟨(State.mem_warnedTotes.1 (TableForm.leastExposed_mem least)).2, ?_⟩
    obtain ⟨before, after, split, more, noLess⟩ := leastExposed_splits least
    rw [split, List.mem_append, List.mem_cons] at hy
    rcases hy with hy | rfl | hy
    · exact (more y hy).le
    · exact le_rfl
    · exact noLess y hy
  · simp [none] at hy

/-- A choice outside its warning is the first tote with a taskable line. -/
theorem State.chosenTote_first (h : s.chosenTote = some c) (calm : s.warned c.2 = false) :
    ∃ before after, s.presentedTotes = before ++ c :: after ∧ ∀ y ∈ before, s.hasTaskable y.2 = false := by
  rcases State.chosenTote_cases h with least | ⟨-, head⟩
  · exact absurd (State.mem_warnedTotes.1 (TableForm.leastExposed_mem least)).2 (by simp [calm])
  · obtain ⟨rest, first⟩ := List.head?_eq_some_iff.1 head
    obtain ⟨before, after, split, kept⟩ := splits_of_filter (before := []) first
    exact ⟨before, after, split, fun y hy => Bool.eq_false_iff.2 fun task => List.not_mem_nil (kept y hy task)⟩

/-- A choice within its warning is the earliest of least exposure. -/
theorem State.chosenTote_earliest (h : s.chosenTote = some c) (warned : s.warned c.2 = true) :
    ∃ before after, s.presentedTotes = before ++ c :: after ∧
      ∀ y ∈ before, s.hasTaskable y.2 = true → s.warned y.2 = true → c.2.exposure.getD 0 < y.2.exposure.getD 0 := by
  rcases State.chosenTote_cases h with least | ⟨none, -⟩
  · obtain ⟨warnedBefore, _, split, more, -⟩ := leastExposed_splits least
    obtain ⟨readyBefore, _, ready, ofWarned⟩ := splits_of_filter split
    obtain ⟨before, after, presented, ofReady⟩ := splits_of_filter ready
    exact ⟨before, after, presented, fun y hy task hot => more y (ofWarned y (ofReady y hy task) hot)⟩
  · have mem : c ∈ s.warnedTotes := State.mem_warnedTotes.2 ⟨State.chosenTote_mem h, warned⟩
    simp [none] at mem

end

/-! ### What a choice lights (R125, R128) -/

section
variable {s : State}

theorem State.startsPermitted_iff :
    s.startsPermitted = true ↔
      s.panel.task = none ∧ (s.mode = .opened ∨ s.mode = .closingSoft) ∧ s.journal.bound = false ∧ s.image ≠ none := by
  simp [State.startsPermitted, and_assoc, Option.isSome_iff_ne_none]

theorem State.taskChoice_stopped (stopped : ¬s.startsPermitted = true) : s.taskChoice = s := if_neg stopped

theorem State.taskChoice_unchosen (none : s.chosenTote = none) : s.taskChoice = s := by
  unfold State.taskChoice
  rw [none]
  exact ite_self s

theorem State.taskChoice_lights (permitted : s.startsPermitted = true) {p : Nat} {x : Tote} {t : ToteId} {b : BoundLine} {l : Line}
    (chosen : s.chosenTote = some (p, x)) (named : x.id = some t) (first : x.bound.find? (s.taskable x) = some b)
    (found : s.lineOf b = some l) : s.taskChoice = s.lightTask p t b l := by
  unfold State.taskChoice
  simp only [permitted, if_true, chosen, named, first, found]

end

/-! ### The keys (R129 to R131) -/

section
variable {s : State}

theorem State.shortKey_dark (dark : s.panel.task = none) : s.shortKey = s := by
  unfold State.shortKey
  rw [dark]

theorem State.shortKey_lit {t : Task} (lit : s.panel.task = some t) :
    s.shortKey =
      { s with
        panel := { s.panel.setPort t.port true (some (t.display - 1)) with task := some { t with display := t.display - 1 } } } := by
  unfold State.shortKey
  rw [lit]

/-- A confirm key at a put other than the task's is a wrong put (R130). -/
theorem State.confirmKey_wrong {p : Nat} (wrong : ∀ t, s.panel.task = some t → t.put ≠ p) : s.confirmKey p = s.flashPut p := by
  unfold State.confirmKey
  split
  case h_1 t lit => exact if_neg (wrong t lit)
  case h_2 => rfl

/-- A change of one put's light, as a change of its panel record. -/
theorem State.updPutLight_eq {p : Nat} {f : PutLight → PutLight} {g : PutPanel → PutPanel}
    (same : ∀ num light, g ⟨num, light⟩ = ⟨num, f light⟩) :
    { s with panel := s.panel.updPutLight p f } =
      { s with panel := { s.panel with puts := s.panel.puts.map fun y => if y.num == p then g y else y } } := by
  obtain rfl : g = fun y => { y with light := f y.light } := funext fun y => same y.num y.light
  rfl

end

end Sys2Proof.Machine

open Sys2Proof Sys2Proof.Machine

/-- Settles O35: the choice by the two steps of R127 (`State.chosenTote_cases`), and what it lights. -/
theorem taskChoice : Obligations.TaskChoice := by
  refine ⟨fun s => ⟨fun stopped => ?_, State.taskChoice_unchosen, ?_⟩, fun s c chosen => ?_,
    fun s x b => ⟨s.taskable_iff x b, s.hasTaskable_iff x, s.warned_iff x⟩⟩
  · refine State.taskChoice_stopped fun permitted => ?_
    obtain ⟨dark, mode, free, configured⟩ := State.startsPermitted_iff.1 permitted
    rcases stopped with lit | hard | closed | bound | none
    · exact lit dark
    · simp [hard] at mode
    · simp [closed] at mode
    · simp [bound] at free
    · exact configured none
  · intro p x t b l dark mode free configured chosen named first found
    have permitted := State.startsPermitted_iff.2 ⟨dark, mode, free, configured⟩
    rw [State.taskChoice_lights permitted chosen named first found]
    rfl
  · obtain ⟨presented, task⟩ := State.mem_taskableTotes.1 (State.chosenTote_mem chosen)
    exact ⟨presented, task,
      fun y hy ready hot => State.chosenTote_least chosen (State.mem_warnedTotes.2 ⟨State.mem_taskableTotes.2 ⟨hy, ready⟩, hot⟩),
      State.chosenTote_first chosen, State.chosenTote_earliest chosen⟩

/-- Settles O36, by whether a task is lit. -/
theorem shortKeyLowersDisplay : Obligations.ShortKeyLowersDisplay := by
  intro s hs
  have press : exec .shortKey s = .next s.shortKey := taken_of_live hs State.shortKey
  refine ⟨fun dark => ?_, fun t lit => ?_⟩
  · rw [press, State.shortKey_dark dark]
  · rw [press, State.shortKey_lit lit]
    rfl

/-- Settles O37: both commands change the light of one put by its old value. -/
theorem wrongPutFlashes : Obligations.WrongPutFlashes := by
  intro s p hs
  have press : exec (.confirmKey p) s = .next (s.confirmKey p) := taken_of_live hs (State.confirmKey p)
  refine ⟨fun wrong => ?_, ?_⟩
  · rw [press, State.confirmKey_wrong wrong]
    exact congrArg Host.Outcome.next (State.updPutLight_eq fun _ light => by cases light <;> rfl)
  · refine (taken_of_live hs fun x => { x with panel := x.panel.updPutLight p PutLight.settle }).trans ?_
    exact congrArg Host.Outcome.next (State.updPutLight_eq fun _ light => by cases light <;> rfl)
end

section
/-! SUPPORT. OPEN (R148, R160), and a close in a mode that it does not change (R149, R150, R157); and the statement. -/

namespace Sys2Proof.Machine

/-! ### OPEN -/

/-- Only a closing bench completes (R156), so the shared operations leave an open bench open. -/
theorem KeepsFloor.opened : KeepsFloor fun s => s.mode = .opened where
  lines _ h := h
  puts _ h := h
  lanes _ h := h
  floor _ _ h := h
  panel _ _ h := h
  write _ h := h
  faults _ h := h
  enqueue _ h := h
  closed closing _ h := by
    rw [h] at closing
    cases closing

section
variable {s : State}

theorem State.openBench_opened (opened : s.mode = .opened) : s.openBench = s := if_pos (beq_iff_eq.2 opened)

theorem State.openBench_opens (unopened : s.mode ≠ .opened) :
    s.openBench = (State.write { s with mode := .opened, requester := none } (.mode s.mode .opened)).taskChoice :=
  if_neg (mt beq_iff_eq.1 unopened)

theorem State.openBench_mode (s : State) : s.openBench.mode = .opened := by
  by_cases opened : s.mode = .opened
  · rw [State.openBench_opened opened, opened]
  · rw [State.openBench_opens opened]
    exact KeepsFloor.opened.taskChoice rfl

/-- An open bench answers a mode action with its mode: no completion stands behind the REPLY (R151). -/
theorem State.modeReply_opened (opened : s.mode = .opened) (src : Nat) (a : ModeAction) :
    s.modeReply src a = s.reply src (.modeAction a .accepted .opened) := by
  have incomplete : ¬s.closeComplete = true := fun complete => by
    rw [State.closeComplete_iff, opened] at complete
    cases complete.1
  rw [State.modeReply, if_neg incomplete, opened]

/-! ### The commands by mode -/

variable {d : Dest}

theorem exec_controlOpen (hs : s.live = true) : exec (.controlOpen d) s = .next (s.clearReceived.takeOpen d) :=
  taken_of_live hs fun x => x.clearReceived.takeOpen d

theorem exec_closeSoft (hs : s.live = true) : exec (.closeSoft d) s = .next (s.clearReceived.takeCloseSoft d) :=
  taken_of_live hs fun x => x.clearReceived.takeCloseSoft d

theorem exec_closeHard (hs : s.live = true) : exec (.closeHard d) s = .next (s.clearReceived.takeCloseHard d) :=
  taken_of_live hs fun x => x.clearReceived.takeCloseHard d

section
variable (away : s.addressed d = false)
include away

theorem State.takeOpen_away : s.takeOpen d = s := if_neg (by simp [away])

theorem State.takeCloseSoft_away : s.takeCloseSoft d = s := if_neg (by simp [away])

theorem State.takeCloseHard_away : s.takeCloseHard d = s := if_neg (by simp [away])

end

section
variable (addressed : s.addressed d = true)
include addressed

theorem State.takeOpen_addressed : s.takeOpen d = s.openBench.reply d.src (.modeAction .opened .accepted .opened) :=
  (if_pos addressed).trans (State.modeReply_opened s.openBench_mode _ _)

theorem State.takeCloseSoft_closed (closed : s.mode = .closed) : s.takeCloseSoft d = s.answerClosed d.src .closeSoft := by
  rw [State.takeCloseSoft, if_pos addressed, closed]

theorem State.takeCloseSoft_closing (closing : s.mode = .closingSoft ∨ s.mode = .closingHard) :
    s.takeCloseSoft d = s.replaceRequester d.src .closeSoft := by
  rw [State.takeCloseSoft, if_pos addressed]
  rcases closing with soft | hard
  · rw [soft]
  · rw [hard]

theorem State.takeCloseHard_closed (closed : s.mode = .closed) : s.takeCloseHard d = s.answerClosed d.src .closeHard := by
  rw [State.takeCloseHard, if_pos addressed, closed]

theorem State.takeCloseHard_closingHard (hard : s.mode = .closingHard) :
    s.takeCloseHard d = s.replaceRequester d.src .closeHard := by
  rw [State.takeCloseHard, if_pos addressed, hard]

end

theorem State.replaceRequester_eq {m : Mode} (mode : s.mode = m) (src : Nat) (a : ModeAction) :
    s.replaceRequester src a = State.reply { s with requester := some src } src (.modeAction a .accepted m) := by
  rw [State.replaceRequester, mode]

end

end Sys2Proof.Machine

open Sys2Proof Sys2Proof.Machine

/-- Settles O45, by the mode the command finds: OPEN answers OPEN (`State.openBench_mode`), a close in CLOSED answers at once, and one
in a closing mode replaces the requester. -/
theorem openAndRepeatedClose : Obligations.OpenAndRepeatedClose := by
  refine ⟨fun s d hs outside => ?_, fun s d hs first last => ?_, fun s d hs first last => ?_⟩
  · have away : s.clearReceived.addressed d = false := (State.not_addressed_iff _ _).2 outside
    rw [exec_controlOpen hs, exec_closeSoft hs, exec_closeHard hs, State.takeOpen_away away, State.takeCloseSoft_away away,
      State.takeCloseHard_away away]
    exact ⟨rfl, rfl, rfl⟩
  · have addressed : s.clearReceived.addressed d = true := (State.addressed_iff _ _).2 ⟨first, last⟩
    rw [exec_controlOpen hs, State.takeOpen_addressed addressed]
    refine ⟨fun opened => ?_, fun unopened => ?_⟩
    · rw [State.openBench_opened (s := s.clearReceived) opened]
    · rw [State.openBench_opens (s := s.clearReceived) unopened]
      rfl
  · have addressed : s.clearReceived.addressed d = true := (State.addressed_iff _ _).2 ⟨first, last⟩
    rw [exec_closeSoft hs, exec_closeHard hs]
    refine ⟨fun closed => ?_, fun soft => ?_, fun hard => ?_⟩
    · rw [State.takeCloseSoft_closed addressed closed, State.takeCloseHard_closed addressed closed]
      exact ⟨rfl, rfl⟩
    · rw [State.takeCloseSoft_closing addressed (.inl soft), State.replaceRequester_eq (s := s.clearReceived) soft]
      rfl
    · rw [State.takeCloseSoft_closing addressed (.inr hard), State.takeCloseHard_closingHard addressed hard,
        State.replaceRequester_eq (s := s.clearReceived) hard, State.replaceRequester_eq (s := s.clearReceived) hard]
      exact ⟨rfl, rfl⟩
end

section
/-! SUPPORT. What the journal and the fault record keep (R163, R173), what FETCH, MARK and CLEAR_FAULTS make of them (R170, R171, R175), and
their statements. -/

namespace Sys2Proof.Machine

/-! ### What only a FETCH takes away (R163, R171) -/

theorem Journal.write_oldest (j : Journal) (now : Nat) (b : EntryBody) : (j.write now b).oldest = j.oldest := by
  unfold Journal.write
  dsimp only
  split
  · rfl
  · rfl

/-- The entries of `j` lead those of the journal, and the oldest of both has the same sequence. -/
theorem Keeps.journalExtends (j : Journal) : Keeps fun s => j.entries <+: s.journal.entries ∧ s.journal.oldest = j.oldest where
  lines _ h := h
  puts _ h := h
  lanes _ h := h
  floor _ _ h := h
  panel _ _ h := h
  write _ h := ⟨h.1.trans (Journal.write_grows _ _ _), (Journal.write_oldest _ _ _).trans h.2⟩
  faults _ h := h
  enqueue _ h := h
  closed _ _ h := h
  contests _ _ h := h
  roster _ _ h := h
  withdraw _ h := h

/-- What is no FETCH takes no entry out of the journal (R163, R171). -/
theorem KeepsAll.journalExtends (j : Journal) :
    KeepsAll (· ≠ .fetched) fun s => j.entries <+: s.journal.entries ∧ s.journal.oldest = j.oldest where
  toKeeps := Keeps.journalExtends j
  enter _ _ _ _ _ _ h := h
  fresh _ _ _ h := h
  landing _ _ _ _ _ _ h := h
  tracker _ _ _ h := h
  clock _ _ _ h := h
  received _ _ _ h := h
  arrival _ _ _ h := h
  act _ _ _ _ h := h
  start _ _ _ _ _ _ h := h
  stop _ _ h := h
  carry _ _ h := h
  fetched k := absurd rfl k
  cleared _ _ _ h := h
  reopen _ _ h := h
  soft _ _ n _ h := (Keeps.journalExtends j).enterSoft (fun _ _ _ h => h) (fun h => h) n h
  hard _ _ n _ h := (Keeps.journalExtends j).enterHard (fun _ _ _ h => h) (fun h => h) n h
  replace _ _ _ _ h := h

theorem fetched_notMem_changes {c : Instr} (h : fetches c = false) : Change.fetched ∉ changes c := by
  cases c with
  | fetch | frameReceived => cases h
  | _ => simp [changes]

theorem cleared_notMem_changes {c : Instr} (h : clears c = false) : Change.cleared ∉ changes c := by
  cases c with
  | clearFaults | frameReceived => cases h
  | _ => simp [changes]

/-! ### FETCH (R171) -/

section
variable {s : State} {d : Dest}

@[simp] theorem State.taskChoice_journal (s : State) : s.taskChoice.journal = s.journal := by
  unfold State.taskChoice
  split
  · split
    · rfl
    · split
      · split <;> rfl
      · rfl
  · rfl

@[simp] theorem State.dropEntries_journal (s : State) (k : Nat) : (s.dropEntries k).journal = s.journal.drop k := by
  unfold State.dropEntries
  dsimp only
  split
  · exact State.taskChoice_journal _
  · rfl

theorem exec_fetch (hs : s.live = true) (d : Dest) (k : Byte) : exec (.fetch d k) s = .next (s.clearReceived.takeFetch d k) :=
  taken_of_live hs fun x => x.clearReceived.takeFetch d k

theorem State.takeFetch_away (away : s.addressed d = false) (k : Byte) : s.takeFetch d k = s := if_neg (by simp [away])

theorem State.takeFetch_malformed (addressed : s.addressed d = true) (range : d.first ≠ d.last) (k : Byte) :
    s.takeFetch d k = s.reply d.src (.fetch .malformed) :=
  (if_pos addressed).trans (if_pos range)

theorem State.takeFetch_one (addressed : s.addressed d = true) (one : d.first = d.last) (k : Byte) :
    s.takeFetch d k = (s.dropEntries k.toNat).queueTo d.src (s.journal.drop k.toNat).answer := by
  rw [State.takeFetch, if_pos addressed, if_neg (not_not.2 one)]
  dsimp only
  rw [State.dropEntries_journal]

/-! ### MARK (R170) -/

variable {count : Nat} {words : List Word}

theorem exec_mark (hs : s.live = true) (d : Dest) (count : Nat) (words : List Word) :
    exec (.mark d count words) s = .next (s.clearReceived.takeMark d count words) :=
  taken_of_live hs fun x => x.clearReceived.takeMark d count words

theorem State.takeMark_away (away : s.addressed d = false) : s.takeMark d count words = s := if_neg (by simp [away])

theorem State.takeMark_malformed (addressed : s.addressed d = true) (differ : count ≠ words.length) :
    s.takeMark d count words = s.reply d.src (.control markCode .malformed) :=
  (if_pos addressed).trans (if_pos differ)

theorem State.takeMark_agreed (addressed : s.addressed d = true) (agree : count = words.length) :
    s.takeMark d count words = s.markEntry d.src words :=
  (if_pos addressed).trans (if_neg (not_not.2 agree))

theorem Journal.roomFor_iff (j : Journal) (e : Entry) : j.roomFor e = true ↔ e.size + 192 ≤ j.free := decide_eq_true_iff

theorem State.markEntry_refused (src : Nat)
    (refused : s.journal.bound = true ∨ s.journal.free < (s.journal.entryAt s.now (.mark words)).size + 192) :
    s.markEntry src words = s.reply src (.control markCode .journalBound) := by
  refine if_pos ?_
  rw [Bool.or_eq_true, Bool.not_eq_true', ← Bool.not_eq_true, Journal.roomFor_iff, not_le]
  exact refused

theorem State.markEntry_written (src : Nat) (unbound : s.journal.bound = false)
    (room : (s.journal.entryAt s.now (.mark words)).size + 192 ≤ s.journal.free) :
    s.markEntry src words = (s.write (.mark words)).reply src (.control markCode .accepted) := by
  refine if_neg ?_
  rw [unbound, (Journal.roomFor_iff _ _).2 room]
  decide

/-! ### CLEAR_FAULTS (R175) -/

variable {mask : BitVec 16}

theorem exec_clearFaults (hs : s.live = true) (d : Dest) (mask : BitVec 16) :
    exec (.clearFaults d mask) s = .next (s.clearReceived.takeClearFaults d mask) :=
  taken_of_live hs fun x => x.clearReceived.takeClearFaults d mask

theorem State.takeClearFaults_away (away : s.addressed d = false) : s.takeClearFaults d mask = s := if_neg (by simp [away])

theorem State.takeClearFaults_addressed (addressed : s.addressed d = true) :
    s.takeClearFaults d mask =
      State.reply { s with faults := s.faults.clear mask } d.src (.control clearFaultsCode .accepted) :=
  if_pos addressed

end

/-! ### The sticky set, kind by kind (R173 to R175) -/

/-- The kinds in the order of their codes, which start at 1 (R174). -/
theorem FaultKind.code_eq_idxOf (k : FaultKind) :
    k.code = [FaultKind.frameCheck, .frameForm, .txDrop, .readFail, .duplicateRead, .phaseSlip, .phaseUnknownMerge, .divertMiss,
      .seatTimeout].idxOf k + 1 := by
  cases k <;> rfl

theorem FaultKind.code_lt (k : FaultKind) : k.code < 16 := by
  cases k <;> decide

theorem FaultKind.code_inj {j k : FaultKind} : j.code = k.code ↔ j = k := by
  refine ⟨fun same => ?_, congrArg _⟩
  rw [FaultKind.code_eq_idxOf, FaultKind.code_eq_idxOf, Nat.add_right_cancel_iff] at same
  exact (List.idxOf_inj (by cases j <;> decide)).1 same

theorem maskHas_stickyWith (m : BitVec 16) (k j : FaultKind) : maskHas (stickyWith m k) j = (maskHas m j || decide (j = k)) := by
  have bit : (BitVec.ofNat 16 (2 ^ k.code)).getLsbD j.code = decide (j = k) := by
    rw [BitVec.getLsbD_ofNat, Nat.testBit_two_pow, decide_eq_true j.code_lt, Bool.true_and]
    exact decide_eq_decide.2 (eq_comm.trans FaultKind.code_inj)
  rw [maskHas, stickyWith, BitVec.getLsbD_or, bit, ← maskHas]

theorem FaultRecord.clear_sticky (r : FaultRecord) (mask : BitVec 16) (k : FaultKind) :
    maskHas (r.clear mask).sticky k = (maskHas r.sticky k && !maskHas mask k) := by
  simp only [maskHas, FaultRecord.clear, BitVec.getLsbD_and, BitVec.getLsbD_not, k.code_lt, decide_true, Bool.true_and]

section
variable {r : FaultRecord} {f : FirstFault} {mask : BitVec 16}

theorem FaultRecord.clear_first_named (first : r.first = some f) (named : maskHas mask f.kind = true) : (r.clear mask).first = none :=
  if_pos (by rw [first]; exact named)

theorem FaultRecord.clear_first_kept (first : r.first = some f) (other : maskHas mask f.kind = false) : (r.clear mask).first = some f :=
  (if_neg (by simp [first, other])).trans first

theorem FaultRecord.clear_first_none (first : r.first = none) : (r.clear mask).first = none :=
  (if_neg (by simp [first])).trans first

theorem FaultRecord.add_first_none (first : r.first = none) (f : FirstFault) : (r.add f).first = some f := by
  rw [FaultRecord.add, first]

theorem FaultRecord.add_first_some {g : FirstFault} (first : r.first = some g) (f : FirstFault) : (r.add f).first = some g := by
  rw [FaultRecord.add, first]

end

end Sys2Proof.Machine

open Sys2Proof Sys2Proof.Machine

/-- Settles O5: only the change of kind `fetched` takes entries, and only `cleared` takes faults. -/
theorem journalAndFaultsGrow : Obligations.JournalAndFaultsGrow := by
  intro c s t event next
  refine ⟨fun unfetched => ?_, fun uncleared => ?_⟩
  · exact (KeepsAll.journalExtends s.journal).exec c event (fun k hk => ne_of_mem_of_not_mem hk (fetched_notMem_changes unfetched)) next
      ⟨List.prefix_refl _, rfl⟩
  · have grows := (FaultsGrow.keepsAll s.faults).exec c event
      (fun k hk => ne_of_mem_of_not_mem hk (cleared_notMem_changes uncleared)) next (.refl s)
    exact ⟨grows.sticky, grows.first⟩

/-- Settles O47, by the range: the JOURNAL frame reports the journal that the removal leaves, which the task choice does not change
(`State.taskChoice_journal`). -/
theorem fetchAdvances : Obligations.FetchAdvances := by
  intro s d k hs
  rw [exec_fetch hs]
  refine ⟨fun outside => ?_, fun first last range => ?_, fun first last => ?_⟩
  · rw [State.takeFetch_away (s := s.clearReceived) ((State.not_addressed_iff _ _).2 outside)]
  · rw [State.takeFetch_malformed (s := s.clearReceived) ((State.addressed_iff _ _).2 ⟨first, last⟩) range]
  · have addressed : s.clearReceived.addressed d = true := (State.addressed_iff _ _).2 ⟨first.le, last.ge⟩
    intro left j advanced chosen
    have drops : s.clearReceived.dropEntries k.toNat = chosen := by
      unfold State.dropEntries
      refine if_congr ?_ rfl rfl
      rw [Bool.and_eq_true, Bool.not_eq_true']
      rfl
    rw [State.takeFetch_one addressed (first.trans last.symm), drops]
    rfl

/-- Settles O48, by the range, the count and the room. -/
theorem markWritten : Obligations.MarkWritten := by
  intro s d count words hs size
  rw [exec_mark hs]
  refine ⟨fun outside => ?_, fun first last => ?_⟩
  · rw [State.takeMark_away (s := s.clearReceived) ((State.not_addressed_iff _ _).2 outside)]
    rfl
  · have addressed : s.clearReceived.addressed d = true := (State.addressed_iff _ _).2 ⟨first, last⟩
    refine ⟨fun differ => ?_, fun agree refused => ?_, fun agree unbound room => ?_⟩
    · rw [State.takeMark_malformed addressed differ]
      rfl
    · rw [State.takeMark_agreed addressed agree, State.markEntry_refused (s := s.clearReceived) _ refused]
      rfl
    · rw [State.takeMark_agreed addressed agree, State.markEntry_written (s := s.clearReceived) _ unbound room]
      rfl

/-- Settles O49: the sticky set kind by kind (`maskHas_stickyWith`, `FaultRecord.clear_sticky`) and the first fault by what is held. -/
theorem faultsRecordedAndCleared : Obligations.FaultsRecordedAndCleared := by
  refine ⟨fun s k place detail bytes => ?_, fun s d mask hs first last => ?_, fun s d mask hs outside => ?_⟩
  · exact ⟨maskHas_stickyWith _ k, fun none => FaultRecord.add_first_none none _, fun f held => FaultRecord.add_first_some held _, rfl⟩
  · have addressed : s.clearReceived.addressed d = true := (State.addressed_iff _ _).2 ⟨first, last⟩
    refine ⟨s.faults.clear mask, ?_, s.faults.clear_sticky mask,
      fun f held => ⟨FaultRecord.clear_first_named held, FaultRecord.clear_first_kept held⟩, FaultRecord.clear_first_none⟩
    rw [exec_clearFaults hs, State.takeClearFaults_addressed addressed]
    rfl
  · rw [exec_clearFaults hs, State.takeClearFaults_away (s := s.clearReceived) ((State.not_addressed_iff _ _).2 outside)]
    rfl
end

section
/-! SUPPORT. Entries: their words (R164, R165, 09 section 9.3), when they are written and what writing leaves (R164, R166, R167); and the
statement. -/

namespace Sys2Proof.Machine

/-! ### The words of an entry -/

theorem EntryBody.isNote_iff (b : EntryBody) : b.isNote = true ↔ 16 ≤ b.kind := by
  cases b <;> simp [EntryBody.isNote, EntryBody.kind]

theorem EntryBody.words_length (b : EntryBody) : b.words.length = b.size := by
  cases b <;> rfl

section
variable {e : Entry}

theorem Entry.size_compact {d : Nat} (compact : e.delta = some d) : e.size = e.body.size + 1 := by
  rw [Entry.size, compact, Nat.add_comm]
  rfl

theorem Entry.size_extended (extended : e.delta = none) : e.size = e.body.size + 2 := by
  rw [Entry.size, extended, Nat.add_comm]
  rfl

theorem Entry.words_compact {d : Nat} (compact : e.delta = some d) :
    e.words = [BitVec.ofNat 32 (e.body.kind * 2 ^ 27 + e.body.size * 2 ^ 23 + d)] ++ e.body.words := by
  simp [Entry.words, Entry.header, Entry.size_compact compact, compact, flagBit]

theorem Entry.words_extended (extended : e.delta = none) :
    e.words =
      [BitVec.ofNat 32 (e.body.kind * 2 ^ 27 + 2 ^ 26 + (e.body.size + 1) * 2 ^ 23), BitVec.ofNat 32 e.time] ++ e.body.words := by
  simp [Entry.words, Entry.header, Entry.size_extended extended, extended, flagBit]

theorem Entry.words_length (e : Entry) : e.words.length = e.size := by
  cases format : e.delta with
  | none =>
      rw [Entry.words_extended format, Entry.size_extended format, ← EntryBody.words_length]
      rfl
  | some d =>
      rw [Entry.words_compact format, Entry.size_compact format, ← EntryBody.words_length]
      rfl

end

/-! ### Writing -/

section
variable {j : Journal} {now : Nat} {b : EntryBody}

/-- The journal with the entry placed (R166). -/
def Journal.placed (j : Journal) (now : Nat) (b : EntryBody) : Journal :=
  Journal.rebound { j with entries := j.entries ++ [j.entryAt now b], lastTime := some now }

theorem Journal.write_business (business : b.isNote = false) : j.write now b = j.placed now b := by
  refine if_neg ?_
  rw [business, Bool.false_and]
  exact Bool.false_ne_true

/-- A note entry is placed where the reserve stays free after it, and a business entry there as everywhere (R164). -/
theorem Journal.write_room (room : (j.entryAt now b).size + 192 ≤ j.free) : j.write now b = j.placed now b := by
  refine if_neg ?_
  rw [(Journal.roomFor_iff _ _).2 room]
  simp

theorem Journal.write_note_full (note : b.isNote = true)
    (full : j.free < (j.entryAt now b).size + 192) : j.write now b = j := by
  refine if_pos ?_
  rw [note, Bool.true_and, Bool.not_eq_true', ← Bool.not_eq_true, Journal.roomFor_iff]
  exact not_le.2 full

end

/-! ### Codes and fields of the bodies -/

theorem Mode.code_eq_idxOf (m : Mode) : m.code = [Mode.closed, .opened, .closingSoft, .closingHard].idxOf m := by
  cases m <;> rfl

theorem ReleaseCause.code_eq_idxOf (c : ReleaseCause) :
    c.code = [ReleaseCause.noLines, .spent, .closeHard, .orphan, .manual].idxOf c + 1 := by
  cases c <;> rfl

theorem FaultKind.degraded_eq (k : FaultKind) : k.degraded = (k == .divertMiss || k == .seatTimeout) := by
  cases k <;> rfl

theorem pickWord_pick (q comp put : Nat) : pickWord q 0 comp put false = BitVec.ofNat 32 (q * 2 ^ 24 + comp * 2 ^ 13 + put * 2 ^ 9) := by
  simp [pickWord, flagBit]

theorem EntryBody.released_words (t : Option ToteId) (c : ReleaseCause) (e q1 q2 q3 q4 : Nat) :
    (EntryBody.released t (some c) e [q1, q2, q3, q4]).words =
      [t.getD 0, BitVec.ofNat 32 (flagBit t.isNone 31 + c.code * 2 ^ 24 + e / 4),
        BitVec.ofNat 32 (q1 * 2 ^ 24 + q2 * 2 ^ 16 + q3 * 2 ^ 8 + q4)] := rfl

end Sys2Proof.Machine

open Sys2Proof Sys2Proof.Machine

/-- Settles O50: writing by the class of the entry and the room left, the words by the format, and the body of each kind. -/
theorem entryWritten : Obligations.EntryWritten := by
  refine ⟨fun j now b => ?_, fun o n t q d c p f => ⟨⟨rfl, ?_⟩, rfl, rfl⟩, fun t pos e score f => ⟨rfl, rfl⟩,
    fun t c e q1 q2 q3 q4 => ⟨rfl, ?_⟩, fun t n => ⟨rfl, rfl⟩, fun o p done shorted cancelled => ⟨⟨rfl, rfl⟩, rfl, rfl⟩,
    fun t score => ⟨⟨rfl, rfl⟩, ⟨rfl, rfl⟩, rfl, rfl⟩, fun old new => ⟨rfl, ?_⟩, fun k place detail => ⟨rfl, ?_⟩,
    fun ws => ⟨rfl, rfl⟩⟩
  · intro delta e after
    refine ⟨Journal.write_business, fun _ room => Journal.write_room room, Journal.write_note_full, b.isNote_iff, e.words_length, ?_,
      b.words_length⟩
    cases format : delta with
    | none => exact Entry.words_extended (e := e) format
    | some d => exact Entry.words_compact (e := e) format
  · rw [EntryBody.words, pickWord_pick]
    rfl
  · rw [EntryBody.released_words, ReleaseCause.code_eq_idxOf]
    rfl
  · rw [EntryBody.words, Mode.code_eq_idxOf, Mode.code_eq_idxOf]
  · rw [EntryBody.words, FaultKind.code_eq_idxOf, FaultKind.degraded_eq]
    rfl
end

section
/-! SUPPORT. The order of ranks (R178), the place of a frame in the transmit queue, what a full queue drops (R181), and the statement. -/

namespace Sys2Proof.Machine

/-- Rank numbers compare by class, then score, then smaller distance, then lower address (R178). -/
theorem rankNumber_lt_iff {c1 c2 s1 s2 d1 d2 a1 a2 : Nat} (score1 : s1 ≤ 65535) (score2 : s2 ≤ 65535) (dist1 : d1 ≤ 1023)
    (dist2 : d2 ≤ 1023) (addr1 : a1 ≤ 63) (addr2 : a2 ≤ 63) :
    rankNumber c1 s1 d1 a1 < rankNumber c2 s2 d2 a2 ↔
      c1 < c2 ∨ c1 = c2 ∧ (s1 < s2 ∨ s1 = s2 ∧ (d2 < d1 ∨ d1 = d2 ∧ a2 < a1)) := by
  unfold rankNumber
  omega

/-! ### The place of a frame (R181) -/

section
variable {e d : TxEntry} {q before after : List TxEntry}

/-- In a queue in order of rank a frame is placed behind those of equal or higher rank and before those of lower. -/
theorem insertTx_splits (sorted : q.Pairwise fun a b => b.frame.rank ≤ a.frame.rank) :
    ∃ before after, q = before ++ after ∧ insertTx e q = before ++ e :: after ∧
      (∀ x ∈ before, e.frame.rank ≤ x.frame.rank) ∧ ∀ x ∈ after, x.frame.rank < e.frame.rank := by
  induction q with
  | nil => exact ⟨[], [], rfl, rfl, by simp, by simp⟩
  | cons x xs ih =>
      obtain ⟨behind, rest⟩ := List.pairwise_cons.1 sorted
      unfold insertTx
      split
      case isTrue noLower =>
        obtain ⟨before, after, rfl, placed, higher, lower⟩ := ih rest
        exact ⟨x :: before, after, rfl, congrArg (x :: ·) placed, List.forall_mem_cons.2 ⟨noLower, higher⟩, lower⟩
      case isFalse lower =>
        have first := Nat.lt_of_not_le lower
        exact ⟨[], x :: xs, rfl, rfl, by simp, List.forall_mem_cons.2 ⟨first, fun y hy => (behind y hy).trans_lt first⟩⟩

/-! ### A full queue (R181) -/

theorem splitLowest_carried (carried : ∀ x ∈ q, x.inCarriage = true) : splitLowest q = none := by
  induction q with
  | nil => rfl
  | cons x xs ih =>
      obtain ⟨first, rest⟩ := List.forall_mem_cons.1 carried
      simp only [splitLowest, ih rest, first, if_true]

theorem splitLowest_last (waits : d.inCarriage = false) (carried : ∀ x ∈ after, x.inCarriage = true) :
    splitLowest (before ++ d :: after) = some (d, before ++ after) := by
  induction before with
  | nil => simp only [List.nil_append, splitLowest, splitLowest_carried carried, waits, Bool.false_eq_true, if_false]
  | cons x xs ih => simp only [List.cons_append, splitLowest, ih]

end

section
variable {s : State} {f : Frame} (full : Config.queueCapacity ≤ s.queue.length)
include full

/-- On a full queue wholly in carriage the new frame is dropped. -/
theorem State.queueFrame_carried (carried : ∀ x ∈ s.queue, x.inCarriage = true) : s.queueFrame f = s.recordDrop f := by
  simp only [State.queueFrame, enqueue, if_neg full.not_gt, splitLowest_carried carried]

section
variable {d : TxEntry} {before after : List TxEntry} (queue : s.queue = before ++ d :: after) (waits : d.inCarriage = false)
  (carried : ∀ x ∈ after, x.inCarriage = true)
include queue waits carried

/-- A new frame that ranks no higher than the last one not in carriage is dropped. -/
theorem State.queueFrame_dropped (noHigher : f.rank ≤ d.frame.rank) : s.queueFrame f = s.recordDrop f := by
  have lowest : splitLowest s.queue = some (d, before ++ after) := queue ▸ splitLowest_last waits carried
  simp only [State.queueFrame, enqueue, if_neg full.not_gt, lowest, if_neg noHigher.not_gt]

/-- One that ranks higher takes the place of that last one. -/
theorem State.queueFrame_replaces (higher : d.frame.rank < f.rank) :
    s.queueFrame f =
      State.recordDrop
        { s with queue := insertTx { frame := f, inCarriage := false, ownerEnded := false } (before ++ after) } d.frame := by
  have lowest : splitLowest s.queue = some (d, before ++ after) := queue ▸ splitLowest_last waits carried
  simp only [State.queueFrame, enqueue, if_neg full.not_gt, lowest, if_pos higher]

end
end

end Sys2Proof.Machine

open Sys2Proof Sys2Proof.Machine

/-- Settles O54: a frame placed in order of rank (`insertTx_splits`), and what gives way on a full queue (`splitLowest_last`,
`splitLowest_carried`); class and kind by the payload. -/
theorem transmitQueueOverflow : Obligations.TransmitQueueOverflow := by
  refine ⟨fun c1 c2 s1 s2 d1 d2 a1 a2 => rankNumber_lt_iff, fun s f => ?_, fun s f => ?_, fun s station p r => ⟨rfl, rfl, rfl⟩⟩
  · refine ⟨fun room sorted => ?_, fun full before d after queue waits carried => ?_, State.queueFrame_carried⟩
    · obtain ⟨before, after, split, placed, higher, lower⟩ :=
        insertTx_splits (e := { frame := f, inCarriage := false, ownerEnded := false }) sorted
      exact ⟨before, after, split, by rw [State.queueFrame_room room, placed], higher, lower⟩
    · exact ⟨State.queueFrame_dropped full queue waits carried, State.queueFrame_replaces full queue waits carried⟩
  · obtain ⟨score, dist, src, first, last, payload⟩ := f
    cases payload <;> exact ⟨rfl, rfl⟩
end

section
/-! SUPPORT. Numbers and lists of bytes (10 section 10.6): a number as bytes and back, slices and groups of a payload, and bytes read by
their position in a frame. -/

namespace Sys2Proof.Machine

/-! ### Numbers as bytes -/

theorem beBytes_eq_map (k v : Nat) : beBytes k v = (List.range k).reverse.map fun i => BitVec.ofNat 8 (v / 256 ^ i) := by
  induction k with
  | zero => rfl
  | succ k ih => rw [List.range_succ, List.reverse_append, beBytes, ih]; rfl

/-- One byte holds a number modulo 256. -/
theorem beBytes_one (v : Nat) : beBytes 1 v = [BitVec.ofNat 8 v] := by
  rw [beBytes, beBytes, pow_zero, Nat.div_one]

@[simp] theorem beBytes_length (k v : Nat) : (beBytes k v).length = k := by
  induction k with
  | zero => rfl
  | succ k ih => rw [beBytes, List.length_cons, ih]

theorem beNat_concat (xs : List Byte) (b : Byte) : beNat (xs ++ [b]) = beNat xs * 256 + b.toNat := by
  simp [beNat]

theorem beNat_append (xs ys : List Byte) : beNat (xs ++ ys) = beNat xs * 256 ^ ys.length + beNat ys := by
  induction ys using List.reverseRecOn with
  | nil => simp [beNat]
  | append_singleton ys b ih =>
      rw [← List.append_assoc, beNat_concat, beNat_concat, ih, List.length_append, List.length_singleton, pow_succ]
      ring

theorem beNat_beBytes (k v : Nat) : beNat (beBytes k v) = v % 256 ^ k := by
  induction k with
  | zero => exact (Nat.mod_one v).symm
  | succ k ih =>
      rw [beBytes, ← List.singleton_append, beNat_append, beBytes_length, ih, pow_succ, Nat.mod_mul, add_comm, mul_comm]
      simp [beNat]

theorem beNat_lt (bs : List Byte) : beNat bs < 256 ^ bs.length := by
  induction bs using List.reverseRecOn with
  | nil => exact Nat.one_pos
  | append_singleton bs b ih =>
      have := b.isLt
      rw [beNat_concat, List.length_append, List.length_singleton, pow_succ]
      omega

/-! ### Bytes by their position -/

section
variable {bs xs ys : List Byte} {a b i k m n : Nat}

theorem sliceBytes_drop : sliceBytes (bs.drop a) b n = sliceBytes bs (a + b) n := by
  rw [sliceBytes, List.drop_drop, sliceBytes]

theorem sliceBytes_sliceBytes (inside : b + m ≤ n) : sliceBytes (sliceBytes bs a n) b m = sliceBytes bs (a + b) m := by
  rw [sliceBytes, sliceBytes, List.drop_take, List.take_take, List.drop_drop, Nat.min_eq_left (by omega), sliceBytes]

theorem getElem?_sliceBytes (inside : i < n) : (sliceBytes bs a n)[i]? = bs[a + i]? := by
  rw [sliceBytes, List.getElem?_take_of_lt inside, List.getElem?_drop]

theorem sliceBytes_length (inside : a + n ≤ bs.length) : (sliceBytes bs a n).length = n := by
  rw [sliceBytes, List.length_take, List.length_drop]
  omega

theorem sliceBytes_append_left (inside : a + n ≤ xs.length) : sliceBytes (xs ++ ys) a n = sliceBytes xs a n := by
  rw [sliceBytes, List.drop_append_of_le_length (by omega), List.take_append_of_le_length (by rw [List.length_drop]; omega), sliceBytes]

theorem sliceBytes_append_right (beyond : xs.length ≤ a) : sliceBytes (xs ++ ys) a n = sliceBytes ys (a - xs.length) n := by
  rw [sliceBytes, List.drop_append, List.drop_eq_nil_of_le beyond, List.nil_append, sliceBytes]

theorem sliceBytes_all : sliceBytes bs 0 bs.length = bs := List.take_length

/-- The groups of a payload, each by its position. -/
theorem groupsOf_eq_map (size n : Nat) (bs : List Byte) :
    groupsOf size n bs = (List.range n).map fun i => sliceBytes bs (size * i) size := by
  induction n generalizing bs with
  | zero => rfl
  | succ n ih =>
      rw [groupsOf, ih, List.range_succ_eq_map, List.map_cons, List.map_map]
      refine congrArg (bs.take size :: ·) (List.map_congr_left fun i _ => ?_)
      rw [sliceBytes_drop, Function.comp_apply, Nat.mul_succ, add_comm]

/-- Cutting a list of records of one size into groups gives the records' bytes. -/
theorem groupsOf_flatMap {α : Type} {size : Nat} {f : α → List Byte} (sized : ∀ x, (f x).length = size) (l : List α) :
    groupsOf size l.length (l.flatMap f) = l.map f := by
  induction l with
  | nil => rfl
  | cons x l ih =>
      rw [List.flatMap_cons, List.length_cons, groupsOf, List.take_left' (sized x), List.drop_left' (sized x), ih, List.map_cons]

theorem fieldAt_lt (bs : List Byte) (n k : Nat) : fieldAt bs n k < 256 ^ k :=
  (beNat_lt _).trans_le (Nat.pow_le_pow_right (by decide) (List.length_take_le ..))

theorem beBytes_fieldAt (k v : Nat) : fieldAt (beBytes k v ++ ys) 0 k = v % 256 ^ k := by
  rw [fieldAt, sliceBytes, List.drop_zero, List.take_left' (beBytes_length k v), beNat_beBytes]

theorem fieldAt_beBytes_append {v : Nat} (beyond : k ≤ a) : fieldAt (beBytes k v ++ ys) a n = fieldAt ys (a - k) n := by
  rw [fieldAt, sliceBytes_append_right (by simpa using beyond), beBytes_length, fieldAt]

/-- Byte `n` as a number, 0 beyond the end. -/
def byteAt (bs : List Byte) (n : Nat) : Nat := (bs.getD n 0).toNat

/-- The number in the `k` bytes from `n`, high byte first, byte by byte. -/
def numAt (bs : List Byte) (n k : Nat) : Nat := (List.range k).foldl (fun a i => a * 256 + byteAt bs (n + i)) 0

theorem byteAt_lt (bs : List Byte) (n : Nat) : byteAt bs n < 256 := (bs.getD n 0).isLt

theorem ofNat_byteAt (bs : List Byte) (n : Nat) : BitVec.ofNat 8 (byteAt bs n) = bs.getD n 0 := BitVec.ofNat_toNat ..

theorem numAt_succ (bs : List Byte) (n k : Nat) : numAt bs n (k + 1) = numAt bs n k * 256 + byteAt bs (n + k) := by
  rw [numAt, List.range_succ, List.foldl_append]
  rfl

theorem numAt_one (bs : List Byte) (n : Nat) : numAt bs n 1 = byteAt bs n := Nat.zero_add _

theorem numAt_add (bs : List Byte) (n j k : Nat) : numAt bs n (j + k) = numAt bs n j * 256 ^ k + numAt bs (n + j) k := by
  induction k with
  | zero => simp [numAt]
  | succ k ih =>
      rw [← add_assoc, numAt_succ, ih, numAt_succ, pow_succ, add_assoc n]
      ring

theorem numAt_lt (bs : List Byte) (n k : Nat) : numAt bs n k < 256 ^ k := by
  induction k with
  | zero => exact Nat.one_pos
  | succ k ih =>
      have := byteAt_lt bs (n + k)
      rw [numAt_succ, pow_succ]
      omega

theorem fieldAt_eq_numAt (inside : n + k ≤ bs.length) : fieldAt bs n k = numAt bs n k := by
  induction k with
  | zero => rfl
  | succ k ih =>
      have byte : (bs.drop n)[k]? = some (bs.getD (n + k) 0) := by
        rw [List.getElem?_drop, List.getD_eq_getElem?_getD, List.getElem?_eq_getElem (by omega)]
        rfl
      rw [numAt_succ, ← ih (by omega), fieldAt, sliceBytes, List.take_add_one, byte]
      exact beNat_concat _ _

end
end Sys2Proof.Machine
end

section
/-! SUPPORT. STATUS (R184) and the carriage of a frame (R177), and their statements. -/

namespace Sys2Proof.Machine

theorem PortState.code_eq_idxOf (p : PortState) :
    p.code = [PortState.vacant, .inbound, .presented, .releaseWait, .releasing, .faulted].idxOf p := by
  cases p <;> rfl

/-! ### STATUS (R184) -/

theorem firstFaultBytes_some (f : FirstFault) :
    firstFaultBytes (some f) =
      [BitVec.ofNat 8 ([FaultKind.frameCheck, .frameForm, .txDrop, .readFail, .duplicateRead, .phaseSlip, .phaseUnknownMerge,
        .divertMiss, .seatTimeout].idxOf f.kind + 1)] ++ beBytes 4 f.seconds ++ beBytes 2 f.place ++ captureBytes 8 f.bytes := by
  rw [firstFaultBytes, beBytes_one, FaultKind.code_eq_idxOf]

section
variable {s : State} {d : Dest}

theorem exec_status (hs : s.live = true) (d : Dest) : exec (.status d) s = .next (s.clearReceived.takeStatus d) :=
  taken_of_live hs fun x => x.clearReceived.takeStatus d

theorem State.countLines_eq (s : State) (st : LineState) : s.countLines st = (s.lines.filter fun l => l.state == st).length :=
  List.countP_eq_length_filter

theorem State.takeStatus_away (away : s.addressed d = false) : s.takeStatus d = s := if_neg (by simp [away])

theorem State.takeStatus_addressed (addressed : s.addressed d = true) :
    s.takeStatus d = s.reply d.src (.status .accepted s.statusData) :=
  if_pos addressed

end

/-! ### The frame in carriage (R177) -/

section
variable {s : State}

theorem State.startHead_empty (empty : s.queue = []) : s.startHead = s := by
  simp [State.startHead, empty]

theorem State.startHead_carrying (carrying : ∃ e ∈ s.queue, e.inCarriage = true) : s.startHead = s :=
  if_pos (List.find?_isSome.2 carrying)

theorem State.startHead_waiting {e : TxEntry} {rest : List TxEntry} (queue : s.queue = e :: rest)
    (waiting : ∀ x ∈ s.queue, x.inCarriage = false) : s.startHead = { s with queue := { e with inCarriage := true } :: rest } := by
  have none : s.carried = none := List.find?_eq_none.2 fun x hx => by simp [waiting x hx]
  rw [State.startHead, none, queue]
  rfl

end

end Sys2Proof.Machine

open Sys2Proof Sys2Proof.Machine

/-- Settles O51, by the range; the bytes of the REPLY by the codes of mode, port state and fault kind. -/
theorem statusAnswers : Obligations.StatusAnswers := by
  refine ⟨fun s d hs => ?_, fun d => ?_⟩
  · rw [exec_status hs]
    refine ⟨fun outside => ?_, fun first last => ?_⟩
    · rw [State.takeStatus_away (s := s.clearReceived) ((State.not_addressed_iff _ _).2 outside)]
    · rw [State.takeStatus_addressed (s := s.clearReceived) ((State.addressed_iff _ _).2 ⟨first, last⟩), State.statusData,
        State.countLines_eq, State.countLines_eq]
      rfl
  · intro byte be
    have ports : (d.ports.map fun p => BitVec.ofNat 8 p.code) ++ List.replicate 4 7 = (d.ports.map fun p =>
        byte ([PortState.vacant, .inbound, .presented, .releaseWait, .releasing, .faulted].idxOf p)) ++ [7, 7, 7, 7] := by
      simp only [PortState.code_eq_idxOf]
      rfl
    have be_eq : be = beBytes := funext₂ fun k n => (beBytes_eq_map k n).symm
    rw [be_eq, ← ports, ← Mode.code_eq_idxOf, Payload.bytes, Reply.bytes, StatusData.bytes]
    simp only [beBytes_one, List.append_assoc, List.cons_append, List.nil_append]
    cases d.first with
    | none => rfl
    | some f => rw [firstFaultBytes_some]; rfl

/-- Settles O55: the head goes into carriage unless a frame stands there, and every frame keeps its place when arbitration is lost. -/
theorem carriageStartsAndStops : Obligations.CarriageStartsAndStops := by
  intro s hs
  have start : exec .transmitStart s = .next s.startHead := taken_of_live hs State.startHead
  refine ⟨fun empty => ?_, fun carrying => ?_, fun e rest queue waiting => ?_, taken_of_live hs State.stopCarriage⟩
  · rw [start, State.startHead_empty empty]
  · rw [start, State.startHead_carrying carrying]
  · rw [start, State.startHead_waiting queue waiting]
end

section
/-! SUPPORT. Which received bytes fail the check and which the form (R179): what the header states, and the form of each payload. -/

namespace Sys2Proof.Machine

/-! ### What the header states (10 section 10.6)

The fields by the bytes that hold them; `receiveBytes_checked` ties them to the model's reception. -/

/-- Payload length. -/
def statedLength (bs : List Byte) : Nat := byteAt bs 7 % 64

/-- Kind code. -/
def statedKind (bs : List Byte) : Nat := byteAt bs 4 % 32

/-- Class, the first 3 bits of the rank. -/
def statedClass (bs : List Byte) : Nat := byteAt bs 0 / 32

/-- Score, the next 16 bits. -/
def statedScore (bs : List Byte) : Nat := numAt bs 0 3 / 32 % 65536

/-- Distance, sent as 1023 less itself. -/
def statedDist (bs : List Byte) : Nat := 1023 - numAt bs 2 2 / 8 % 1024

/-- Source, sent as 63 less itself, and the range addressed. -/
def statedDest (bs : List Byte) : Dest :=
  { src := 63 - numAt bs 3 2 / 32 % 64, first := byteAt bs 5 % 64, last := byteAt bs 6 % 64 }

/-- The payload by its stated length. -/
def statedPayload (bs : List Byte) : List Byte := sliceBytes bs 8 (statedLength bs)

section
variable {bs : List Byte}

theorem rank_kind : numAt bs 0 5 % 32 = statedKind bs := by
  have split : numAt bs 0 5 = numAt bs 0 4 * 256 + byteAt bs 4 := numAt_succ bs 0 4
  rw [split, statedKind]
  omega

theorem rank_class : numAt bs 0 5 / 2 ^ 37 % 8 = statedClass bs := by
  have split : numAt bs 0 5 = numAt bs 0 1 * 256 ^ 4 + numAt bs 1 4 := numAt_add bs 0 1 4
  have high := byteAt_lt bs 0
  have low := numAt_lt bs 1 4
  rw [split, numAt_one, statedClass]
  omega

/-- Score and distance stand above and across the last two bytes of the rank, which hold the source and the kind. -/
theorem rank_low_bytes : numAt bs 0 5 = numAt bs 0 3 * 256 ^ 2 + numAt bs 3 2 := numAt_add bs 0 3 2

theorem rank_score : numAt bs 0 5 / 2 ^ 21 % 65536 = statedScore bs := by
  have low := numAt_lt bs 3 2
  rw [rank_low_bytes, statedScore]
  omega

theorem rank_src : 63 - numAt bs 0 5 / 32 % 64 = (statedDest bs).src := by
  have low := numAt_lt bs 3 2
  change _ = 63 - numAt bs 3 2 / 32 % 64
  rw [rank_low_bytes]
  omega

theorem statedDest_eq (bs : List Byte) :
    statedDest bs = { src := 63 - numAt bs 0 5 / 32 % 64, first := byteAt bs 5 % 64, last := byteAt bs 6 % 64 } := by
  rw [rank_src]
  rfl

theorem rank_dist : 1023 - numAt bs 0 5 / 2 ^ 11 % 1024 = statedDist bs := by
  have split : numAt bs 0 5 = numAt bs 0 4 * 256 + byteAt bs 4 := numAt_succ bs 0 4
  have across : numAt bs 0 4 = numAt bs 0 2 * 256 ^ 2 + numAt bs 2 2 := numAt_add bs 0 2 2
  have low := byteAt_lt bs 4
  rw [split, across, statedDist]
  omega

end

/-! ### The check (R179) -/

section
variable {l : Nat} {bs : List Byte}

theorem checkFails_iff (bs : List Byte) :
    checkFails bs = true ↔ bs.length < 8 ∨ bs.length < 8 + statedLength bs + 2 ∨
      (crc16 (bs.take (8 + statedLength bs))).toNat ≠ numAt bs (8 + statedLength bs) 2 := by
  unfold checkFails
  split
  case isTrue short => simp [short]
  case isFalse header =>
    have length : fieldAt bs 7 1 % 64 = statedLength bs := by rw [fieldAt_eq_numAt (by omega), numAt_one, statedLength]
    rw [length]
    dsimp only
    split
    case isTrue short => simp [short]
    case isFalse whole => simp [fieldAt_eq_numAt (Nat.le_of_not_lt whole), header, whole]

/-- Frames that pass the check hold the bytes they state. -/
theorem length_of_checked (checked : checkFails bs = false) : 8 + statedLength bs + 2 ≤ bs.length := by
  rw [← Bool.not_eq_true, checkFails_iff, not_or, not_or] at checked
  exact Nat.le_of_not_lt checked.2.1

/-- A frame that passes the check comes to what its payload comes to, unless its length or its kind and class fail the form. -/
theorem receiveBytes_checked (checked : checkFails bs = false) :
    receiveBytes l bs =
      if 48 < statedLength bs then .badForm
      else if kindClass (statedKind bs) ≠ some (statedClass bs) then .badForm
      else receivedOfPayload l (statedKind bs) (statedDest bs) (statedScore bs) (statedDist bs) (statedPayload bs) := by
  have held := length_of_checked checked
  rw [receiveBytes, if_neg (by simp [checked])]
  simp only [fieldAt_eq_numAt (show 0 + 5 ≤ bs.length by omega), fieldAt_eq_numAt (show 5 + 1 ≤ bs.length by omega),
    fieldAt_eq_numAt (show 6 + 1 ≤ bs.length by omega), fieldAt_eq_numAt (show 7 + 1 ≤ bs.length by omega), rank_kind, rank_class,
    rank_score, rank_dist, rank_src, numAt_one]
  rfl

/-! ### The form (R179) -/

theorem kindClass_eq_some_iff {kind cls : Nat} :
    kindClass kind = some cls ↔
      (kind, cls) ∈
        [(1, 5), (2, 6), (3, 7), (4, 4), (5, 4), (6, 3), (7, 3), (8, 3), (9, 3), (10, 2), (11, 2), (12, 1)] := by
  unfold kindClass
  split <;> simp_all [eq_comm]

theorem compsOfCode_eq_some {c : Nat} (valid : c < 3) : compsOfCode c = some (2 ^ c) := by
  interval_cases c <;> rfl

theorem causeOfCode_eq_some {c : Nat} (low : c ≠ 0) (high : c < 4) :
    causeOfCode c = some ([OfferCause.infeed, .release, .relinquish].getD (c - 1) .infeed) := by
  interval_cases c <;> simp_all [causeOfCode]

theorem classOfCode_eq_some {c : Nat} (low : c ≠ 0) (high : c < 4) :
    classOfCode c = some ([TempClass.ambient, .chilled, .frozen].getD (c - 1) .ambient) := by
  interval_cases c <;> simp_all [classOfCode]

/-- The class field of a GRANT's line, 0 for none. -/
theorem classOfCode_eq_getD (c : Nat) :
    classOfCode c = [none, some TempClass.ambient, some .chilled, some .frozen].getD c none := by
  match c with
  | 0 | 1 | 2 | 3 => rfl
  | c + 4 => rfl


theorem fixedLength_eq_badForm {pay : List Byte} {n : Nat} {r : Received} (good : r ≠ .badForm) :
    fixedLength pay n r = .badForm ↔ pay.length ≠ n := by
  unfold fixedLength
  split <;> simp [*]

theorem fixedLength_ne_badCheck {pay : List Byte} {n : Nat} {r : Received} (good : r ≠ .badCheck) :
    fixedLength pay n r ≠ .badCheck := by
  unfold fixedLength
  split <;> simp [*]

end

/-! ### The OFFER (10 section 10.6) -/

section
variable {l src : Nat} {pay : List Byte}

/-- A code of compartments, cause or class that names none. -/
def offerUncoded (c : Nat) : Prop := c % 4 = 3 ∨ c / 64 = 0 ∨ c / 16 % 4 = 0

theorem offerOfBytes_uncoded (uncoded : offerUncoded (fieldAt pay 6 1)) : offerOfBytes l src pay = .badForm := by
  unfold offerOfBytes
  rcases uncoded with comps | cause | cls
  · simp [comps, compsOfCode]
  · simp only [cause, causeOfCode]
    cases compsOfCode _ <;> rfl
  · simp only [cls, classOfCode]
    cases compsOfCode _ <;> cases causeOfCode _ <;> rfl

theorem offerOfBytes_coded (coded : ¬ offerUncoded (fieldAt pay 6 1)) :
    offerOfBytes l src pay =
      if pay.length = 9 + 4 * 2 ^ (fieldAt pay 6 1 % 4) ∧ fieldAt pay 4 2 % 1024 < l then
        .offer
          { src := src, tote := BitVec.ofNat 32 (fieldAt pay 0 4), slot := fieldAt pay 4 2 % 1024
            cause := [OfferCause.infeed, .release, .relinquish].getD (fieldAt pay 6 1 / 64 - 1) .infeed
            cls := [TempClass.ambient, .chilled, .frozen].getD (fieldAt pay 6 1 / 16 % 4 - 1) .ambient
            comps := (groupsOf 4 (2 ^ (fieldAt pay 6 1 % 4)) (pay.drop 9)).map compOfBytes
            exposureField := fieldAt pay 7 2 % 4096 }
      else .badForm := by
  have byte := fieldAt_lt pay 6 1
  simp only [offerUncoded, not_or] at coded
  obtain ⟨comps, cause, cls⟩ := coded
  unfold offerOfBytes
  simp only [compsOfCode_eq_some (show fieldAt pay 6 1 % 4 < 3 by omega), causeOfCode_eq_some cause (by omega),
    classOfCode_eq_some cls (by omega)]

theorem offerOfBytes_eq_badForm :
    offerOfBytes l src pay = .badForm ↔
      pay.length ≠ 9 + 4 * 2 ^ (fieldAt pay 6 1 % 4) ∨ offerUncoded (fieldAt pay 6 1) ∨ l ≤ fieldAt pay 4 2 % 1024 := by
  by_cases uncoded : offerUncoded (fieldAt pay 6 1)
  · simp [offerOfBytes_uncoded uncoded, uncoded]
  · rw [offerOfBytes_coded uncoded]
    split <;> simp [uncoded] <;> omega

theorem offerOfBytes_ne_badCheck : offerOfBytes l src pay ≠ .badCheck := by
  by_cases uncoded : offerUncoded (fieldAt pay 6 1)
  · simp [offerOfBytes_uncoded uncoded]
  · rw [offerOfBytes_coded uncoded]
    split <;> simp

end

/-! ### The CONTROL (R183) -/

section
variable {d : Dest} {pay : List Byte}

theorem controlOfBytes_empty (empty : pay.length = 0) : controlOfBytes d pay = .malformedControl d (payloadByte pay 0) := by
  simp [controlOfBytes, empty]

theorem controlOfBytes_eq {a : Byte} (first : payloadByte pay 0 = a) (some : 1 ≤ pay.length) :
    controlOfBytes d pay =
      if a.toNat = 1 ∧ pay.length = 1 then .modeAction .opened d
      else if a.toNat = 2 ∧ pay.length = 1 then .modeAction .closeSoft d
      else if a.toNat = 3 ∧ pay.length = 1 then .modeAction .closeHard d
      else if a.toNat = 4 ∧ pay.length = 1 then .status d
      else if a.toNat = 5 ∧ pay.length = 3 then .clearFaults d (BitVec.ofNat 16 (fieldAt pay 1 2))
      else if a.toNat = 6 ∧ pay.length = 2 + 4 * (fieldAt pay 1 1 % 4 + 1) then
        .mark d (fieldAt pay 1 1 % 4 + 1)
          ((groupsOf 4 (fieldAt pay 1 1 % 4 + 1) (pay.drop 2)).map fun w => BitVec.ofNat 32 (beNat w))
      else .malformedControl d a := by
  obtain ⟨n, length⟩ := Nat.exists_eq_add_of_le' some
  simp only [controlOfBytes, first, length]
  generalize a.toNat = action
  match action with
  | 0 | 1 | 2 | 3 | 4 | 5 => simp
  | 6 => simp [show n + 1 = 2 + 4 * (fieldAt pay 1 1 % 4 + 1) ↔ n = 1 + 4 * (fieldAt pay 1 1 % 4 + 1) by omega]
  | action + 7 => simp

theorem controlOfBytes_good : controlOfBytes d pay ≠ .badCheck ∧ controlOfBytes d pay ≠ .badForm := by
  rcases Nat.eq_zero_or_pos pay.length with empty | some
  · simp [controlOfBytes_empty empty]
  · rw [controlOfBytes_eq rfl some]
    split_ifs <;> simp

end

/-! ### Check and form of all kinds (R179) -/

section
variable {l kind score dist : Nat} {d : Dest} {pay bs : List Byte}

theorem receivedOfPayload_ne_badCheck : receivedOfPayload l kind d score dist pay ≠ .badCheck := by
  unfold receivedOfPayload
  split
  case h_1 => exact offerOfBytes_ne_badCheck
  case h_9 => exact controlOfBytes_good.1
  all_goals simp [fixedLength_ne_badCheck]

theorem receivedOfPayload_eq_badForm :
    receivedOfPayload l kind d score dist pay = .badForm ↔
      (kind = 2 ∨ kind = 4 ∨ kind = 5) ∧ pay.length ≠ 4 ∨ kind = 3 ∧ pay.length ≠ 5 ∨ kind = 7 ∧ pay.length ≠ 3 ∨
        (kind = 8 ∨ kind = 11) ∧ pay.length ≠ 1 ∨ kind = 1 ∧ offerOfBytes l d.src pay = .badForm := by
  unfold receivedOfPayload
  split
  case h_9 => simp [controlOfBytes_good.2]
  all_goals simp_all [fixedLength_eq_badForm]

theorem receiveBytes_eq_badCheck :
    receiveBytes l bs = .badCheck ↔ checkFails bs = true := by
  by_cases fails : checkFails bs = true
  · simp [receiveBytes, fails]
  · rw [receiveBytes_checked (Bool.eq_false_of_not_eq_true fails)]
    split_ifs <;> simp [fails, receivedOfPayload_ne_badCheck]

end
end Sys2Proof.Machine
end

section
/-! SUPPORT. The fields that the payload of a frame with a good check holds (10 section 10.6), by the bytes of the frame. -/

namespace Sys2Proof.Machine

/-! ### The payload's bytes in the frame -/

section
variable {bs pay : List Byte} {a n p k i size count : Nat}

theorem fieldAt_sliceBytes (inside : p + k ≤ n) : fieldAt (sliceBytes bs a n) p k = fieldAt bs (a + p) k := by
  rw [fieldAt, sliceBytes_sliceBytes inside, fieldAt]

theorem getD_sliceBytes (inside : i < n) : (sliceBytes bs a n).getD i 0 = BitVec.ofNat 8 (byteAt bs (a + i)) := by
  rw [ofNat_byteAt, List.getD_eq_getElem?_getD, getElem?_sliceBytes inside, List.getD_eq_getElem?_getD]

theorem map_groupsOf_sliceBytes {α : Type} (f : List Byte → α) (inside : p + size * count ≤ n) :
    (groupsOf size count ((sliceBytes bs a n).drop p)).map f =
      (List.range count).map fun i => f (sliceBytes bs (a + (p + size * i)) size) := by
  rw [groupsOf_eq_map, List.map_map]
  refine List.map_congr_left fun i hi => ?_
  have last : size * (i + 1) ≤ size * count := Nat.mul_le_mul_left size (List.mem_range.1 hi)
  rw [Nat.mul_succ] at last
  rw [Function.comp_apply, sliceBytes_drop, sliceBytes_sliceBytes (by omega)]

theorem compOfBytes_sliceBytes (held : n + 4 ≤ bs.length) :
    compOfBytes (sliceBytes bs n 4) =
      { sku := BitVec.ofNat 24 (numAt bs n 3), qty := BitVec.ofNat 8 (byteAt bs (n + 3)) } := by
  rw [compOfBytes, fieldAt_sliceBytes (by decide), getD_sliceBytes (by decide), fieldAt_eq_numAt (by omega)]
  rfl

theorem grantLineOfBytes_sliceBytes (held : n + 7 ≤ bs.length) :
    grantLineOfBytes (sliceBytes bs n 7) =
      { lineNo := BitVec.ofNat 8 (byteAt bs n), sku := BitVec.ofNat 24 (numAt bs (n + 1) 3)
        qtyField := BitVec.ofNat 8 (byteAt bs (n + 4))
        cls := [none, some TempClass.ambient, some .chilled, some .frozen].getD (byteAt bs (n + 5) / 64) none
        slack := BitVec.ofNat 14 (numAt bs (n + 5) 2) } := by
  have cls : numAt bs (n + 5) 2 / 16384 = byteAt bs (n + 5) / 64 := by
    have low := byteAt_lt bs (n + 5 + 1)
    rw [numAt_succ, numAt_one]
    omega
  rw [grantLineOfBytes, fieldAt_sliceBytes (by decide), fieldAt_sliceBytes (by decide), getD_sliceBytes (by decide),
    getD_sliceBytes (by decide), fieldAt_eq_numAt (by omega), fieldAt_eq_numAt (by omega), cls, classOfCode_eq_getD]
  rfl

end

section
variable {l src p k i : Nat} {d : Dest} {bs : List Byte} (checked : checkFails bs = false)
include checked

theorem statedPayload_length : (statedPayload bs).length = statedLength bs :=
  sliceBytes_length ((Nat.le_add_right _ 2).trans (length_of_checked checked))

theorem fieldAt_statedPayload (inside : p + k ≤ statedLength bs) : fieldAt (statedPayload bs) p k = numAt bs (8 + p) k := by
  have held := length_of_checked checked
  rw [statedPayload, fieldAt_sliceBytes inside, fieldAt_eq_numAt (by omega)]

theorem payloadByte_statedPayload (inside : i < statedLength bs) :
    payloadByte (statedPayload bs) i = BitVec.ofNat 8 (byteAt bs (8 + i)) := by
  have held := length_of_checked checked
  rw [payloadByte, statedPayload, getElem?_sliceBytes inside, ofNat_byteAt, List.getD_eq_getElem?_getD,
    List.getElem?_eq_getElem (by omega)]
  rfl

theorem payloadOrder_statedPayload (inside : 3 ≤ statedLength bs) :
    payloadOrder (statedPayload bs) = BitVec.ofNat 24 (numAt bs 8 3) := by
  rw [payloadOrder, payloadByte_statedPayload checked (by omega), payloadByte_statedPayload checked (by omega),
    payloadByte_statedPayload checked (by omega), ofNat_byteAt, ofNat_byteAt, ofNat_byteAt]
  rfl

/-! ### The fields of each payload (10 section 10.6) -/

theorem offerOfBytes_statedPayload_eq_badForm :
    offerOfBytes l src (statedPayload bs) = .badForm ↔
      statedLength bs ≠ 9 + 4 * 2 ^ (byteAt bs 14 % 4) ∨ offerUncoded (byteAt bs 14) ∨ l ≤ numAt bs 12 2 % 1024 := by
  rw [offerOfBytes_eq_badForm, statedPayload_length checked]
  by_cases header : 7 ≤ statedLength bs
  · rw [fieldAt_statedPayload checked (by omega), fieldAt_statedPayload checked (by omega), numAt_one]
  · have short (c : Nat) : statedLength bs ≠ 9 + 4 * 2 ^ c := by omega
    exact iff_of_true (.inl (short _)) (.inl (short _))

theorem offerOfBytes_statedPayload (good : offerOfBytes l src (statedPayload bs) ≠ .badForm) :
    offerOfBytes l src (statedPayload bs) = .offer
      { src := src, tote := BitVec.ofNat 32 (numAt bs 8 4), slot := numAt bs 12 2 % 1024
        cause := [OfferCause.infeed, .release, .relinquish].getD (byteAt bs 14 / 64 - 1) .infeed
        cls := [TempClass.ambient, .chilled, .frozen].getD (byteAt bs 14 / 16 % 4 - 1) .ambient
        comps := (List.range (2 ^ (byteAt bs 14 % 4))).map fun i =>
          { sku := BitVec.ofNat 24 (numAt bs (17 + 4 * i) 3), qty := BitVec.ofNat 8 (byteAt bs (20 + 4 * i)) }
        exposureField := numAt bs 15 2 % 4096 } := by
  have held := length_of_checked checked
  obtain ⟨length, coded, slot⟩ : statedLength bs = 9 + 4 * 2 ^ (byteAt bs 14 % 4) ∧ ¬ offerUncoded (byteAt bs 14) ∧
      numAt bs 12 2 % 1024 < l := by
    rw [Ne, offerOfBytes_statedPayload_eq_badForm checked] at good
    simpa only [not_or, not_not, not_le] using good
  have codes : fieldAt (statedPayload bs) 6 1 = byteAt bs 14 := by rw [fieldAt_statedPayload checked (by omega), numAt_one]
  have place : fieldAt (statedPayload bs) 4 2 = numAt bs 12 2 := fieldAt_statedPayload checked (by omega)
  rw [offerOfBytes_coded (by rwa [codes]), codes, place, statedPayload_length checked, if_pos ⟨length, slot⟩,
    fieldAt_statedPayload checked (by omega), fieldAt_statedPayload checked (by omega), statedPayload,
    map_groupsOf_sliceBytes _ (by omega)]
  congr 2
  refine List.map_congr_left fun i hi => ?_
  have last := List.mem_range.1 hi
  have start : 8 + (9 + 4 * i) = 17 + 4 * i := by omega
  rw [start, compOfBytes_sliceBytes (by omega), Nat.add_right_comm 17 (4 * i)]

theorem grantOfBytes_statedPayload (header : 4 ≤ statedLength bs) :
    grantOfBytes d (statedPayload bs) =
      { dest := d, order := BitVec.ofNat 24 (numAt bs 8 3), put := byteAt bs 11 / 16, count := byteAt bs 11 % 8 + 1
        lines := (List.range (if (statedLength bs - 4) % 7 = 0 then (statedLength bs - 4) / 7 else 0)).map fun i =>
          { lineNo := BitVec.ofNat 8 (byteAt bs (12 + 7 * i)), sku := BitVec.ofNat 24 (numAt bs (13 + 7 * i) 3)
            qtyField := BitVec.ofNat 8 (byteAt bs (16 + 7 * i))
            cls := [none, some TempClass.ambient, some .chilled, some .frozen].getD (byteAt bs (17 + 7 * i) / 64) none
            slack := BitVec.ofNat 14 (numAt bs (17 + 7 * i) 2) } } := by
  have held := length_of_checked checked
  have lines : grantHeld (statedLength bs) = if (statedLength bs - 4) % 7 = 0 then (statedLength bs - 4) / 7 else 0 := by
    simp only [grantHeld, header, true_and]
  have fits : 4 + 7 * grantHeld (statedLength bs) ≤ statedLength bs := by
    rw [lines]
    split <;> omega
  rw [grantOfBytes, payloadOrder_statedPayload checked (by omega), statedPayload_length checked,
    fieldAt_statedPayload checked (by omega), numAt_one, statedPayload, map_groupsOf_sliceBytes _ fits, ← lines]
  congr 1
  refine List.map_congr_left fun i hi => ?_
  have last := List.mem_range.1 hi
  have start : 8 + (4 + 7 * i) = 12 + 7 * i := by omega
  rw [start, grantLineOfBytes_sliceBytes (by omega)]
  simp only [Nat.add_right_comm 12 (7 * i)]

theorem grantOfBytes_short (short : statedLength bs < 4) : (grantOfBytes d (statedPayload bs)).lines = [] := by
  rw [grantOfBytes, statedPayload_length checked, grantHeld, if_neg (by omega)]
  rfl

theorem controlOfBytes_statedPayload (some : 1 ≤ statedLength bs) :
    controlOfBytes d (statedPayload bs) =
      if byteAt bs 8 = 1 ∧ statedLength bs = 1 then .modeAction .opened d
      else if byteAt bs 8 = 2 ∧ statedLength bs = 1 then .modeAction .closeSoft d
      else if byteAt bs 8 = 3 ∧ statedLength bs = 1 then .modeAction .closeHard d
      else if byteAt bs 8 = 4 ∧ statedLength bs = 1 then .status d
      else if byteAt bs 8 = 5 ∧ statedLength bs = 3 then .clearFaults d (BitVec.ofNat 16 (numAt bs 9 2))
      else if byteAt bs 8 = 6 ∧ statedLength bs = 2 + 4 * (byteAt bs 9 % 4 + 1) then
        .mark d (byteAt bs 9 % 4 + 1)
          ((List.range (byteAt bs 9 % 4 + 1)).map fun i => BitVec.ofNat 32 (numAt bs (10 + 4 * i) 4))
      else .malformedControl d (BitVec.ofNat 8 (byteAt bs 8)) := by
  have held := length_of_checked checked
  have action : (BitVec.ofNat 8 (byteAt bs 8)).toNat = byteAt bs 8 := by rw [ofNat_byteAt, byteAt]
  rw [controlOfBytes_eq (payloadByte_statedPayload checked (by omega)) (statedPayload_length checked ▸ some), action,
    statedPayload_length checked]
  rcases Nat.lt_or_ge (statedLength bs) 3 with short | long
  · have three : statedLength bs ≠ 3 := by omega
    have words (n : Nat) : statedLength bs ≠ 2 + 4 * (n + 1) := by omega
    simp only [three, words, and_false, if_false]
  · have count : fieldAt (statedPayload bs) 1 1 = byteAt bs 9 := by rw [fieldAt_statedPayload checked (by omega), numAt_one]
    rw [fieldAt_statedPayload checked (by omega), count]
    by_cases words : statedLength bs = 2 + 4 * (byteAt bs 9 % 4 + 1)
    · rw [statedPayload, map_groupsOf_sliceBytes _ (by omega)]
      have word : ∀ i ∈ List.range (byteAt bs 9 % 4 + 1),
          BitVec.ofNat 32 (beNat (sliceBytes bs (8 + (2 + 4 * i)) 4)) = BitVec.ofNat 32 (numAt bs (10 + 4 * i) 4) := by
        intro i hi
        have last := List.mem_range.1 hi
        rw [← fieldAt, fieldAt_eq_numAt (by omega), ← Nat.add_assoc]
      rw [List.map_congr_left word]
    · simp only [words, and_false, if_false]

end
end Sys2Proof.Machine
end

section
/-! SUPPORT. What well-formed bytes of each kind come to, the command they act as (R179, R180, R183), and the statement. -/

namespace Sys2Proof.Machine

/-! ### Frames that pass check and form (R180) -/

section
variable {l : Nat} {bs : List Byte}

theorem receiveBytes_ne_badCheck : receiveBytes l bs ≠ .badCheck ↔ checkFails bs = false := by
  rw [Ne, receiveBytes_eq_badCheck, Bool.not_eq_true]

/-- What stands of a frame that passes check and form: its payload decides what it comes to, and the lengths are those of its kind. -/
structure WellFormed (l : Nat) (bs : List Byte) : Prop where
  checked : checkFails bs = false
  received : receiveBytes l bs =
    receivedOfPayload l (statedKind bs) (statedDest bs) (statedScore bs) (statedDist bs) (statedPayload bs)
  kindClass : kindClass (statedKind bs) = some (statedClass bs)
  fourBytes : statedKind bs = 2 ∨ statedKind bs = 4 ∨ statedKind bs = 5 → statedLength bs = 4
  fiveBytes : statedKind bs = 3 → statedLength bs = 5
  threeBytes : statedKind bs = 7 → statedLength bs = 3
  oneByte : statedKind bs = 8 ∨ statedKind bs = 11 → statedLength bs = 1
  offer : statedKind bs = 1 → offerOfBytes l (statedDest bs).src (statedPayload bs) ≠ .badForm

/-- The frames that pass the check and fail the form (R179). -/
theorem receiveBytes_eq_badForm (checked : checkFails bs = false) :
    receiveBytes l bs = .badForm ↔
      48 < statedLength bs ∨ kindClass (statedKind bs) ≠ some (statedClass bs) ∨
        (statedKind bs = 2 ∨ statedKind bs = 4 ∨ statedKind bs = 5) ∧ statedLength bs ≠ 4 ∨
        statedKind bs = 3 ∧ statedLength bs ≠ 5 ∨ statedKind bs = 7 ∧ statedLength bs ≠ 3 ∨
        (statedKind bs = 8 ∨ statedKind bs = 11) ∧ statedLength bs ≠ 1 ∨
        statedKind bs = 1 ∧ offerOfBytes l (statedDest bs).src (statedPayload bs) = .badForm := by
  rw [receiveBytes_checked checked]
  split
  case isTrue long => exact iff_of_true rfl (.inl long)
  case isFalse fits =>
    split
    case isTrue unpaired => exact iff_of_true rfl (.inr (.inl unpaired))
    case isFalse paired =>
      rw [receivedOfPayload_eq_badForm, statedPayload_length checked, or_iff_right fits, or_iff_right paired]

theorem wellFormed (checked : receiveBytes l bs ≠ .badCheck) (formed : receiveBytes l bs ≠ .badForm) : WellFormed l bs := by
  have checked := receiveBytes_ne_badCheck.1 checked
  have form := formed
  rw [Ne, receiveBytes_eq_badForm checked] at form
  simp only [not_or, not_and, not_not] at form
  obtain ⟨fits, paired, four, five, three, one, offer⟩ := form
  refine ⟨checked, ?_, paired, four, five, three, one, offer⟩
  rw [receiveBytes_checked checked, if_neg fits, if_neg (not_not.2 paired)]

end

namespace WellFormed

section
variable {l : Nat} {bs : List Byte} (h : WellFormed l bs)
include h

/-- A payload of 4 bytes or more begins with what a contest frame holds there, its tote. -/
theorem tote {n : Nat} (length : statedLength bs = n) (four : 4 ≤ n) :
    fieldAt (statedPayload bs) 0 4 = numAt bs 8 4 := fieldAt_statedPayload h.checked (by omega)

theorem fixed {n : Nat} {r : Received} (length : statedLength bs = n) : fixedLength (statedPayload bs) n r = r :=
  if_pos ((statedPayload_length h.checked).trans length)

theorem bid (kind : statedKind bs = 2) :
    receiveBytes l bs = .bid (statedDest bs).src (statedScore bs) (statedDist bs) (BitVec.ofNat 32 (numAt bs 8 4)) := by
  have length := h.fourBytes (.inl kind)
  rw [h.received, kind, receivedOfPayload, h.fixed length, h.tote length le_rfl]

theorem take (kind : statedKind bs = 3) :
    receiveBytes l bs = .take (statedDest bs).src (statedScore bs) (statedDist bs) (BitVec.ofNat 32 (numAt bs 8 4))
      (decide (byteAt bs 12 % 2 = 1)) := by
  have length := h.fiveBytes kind
  rw [h.received, kind, receivedOfPayload, h.fixed length, h.tote length (by decide),
    fieldAt_statedPayload h.checked (by omega), numAt_one]
  rfl

theorem landed (kind : statedKind bs = 4) :
    receiveBytes l bs = .landed (statedDest bs).src (BitVec.ofNat 32 (numAt bs 8 4)) := by
  have length := h.fourBytes (.inr (.inl kind))
  rw [h.received, kind, receivedOfPayload, h.fixed length, h.tote length le_rfl]

theorem exit (kind : statedKind bs = 5) :
    receiveBytes l bs = .exit (statedDest bs).src (BitVec.ofNat 32 (numAt bs 8 4)) := by
  have length := h.fourBytes (.inr (.inr kind))
  rw [h.received, kind, receivedOfPayload, h.fixed length, h.tote length le_rfl]

theorem grant (kind : statedKind bs = 6) : receiveBytes l bs = .grant (grantOfBytes (statedDest bs) (statedPayload bs)) := by
  rw [h.received, kind, receivedOfPayload]

theorem cancel (kind : statedKind bs = 7) :
    receiveBytes l bs = .cancel (statedDest bs) (BitVec.ofNat 24 (numAt bs 8 3)) := by
  have length := h.threeBytes kind
  rw [h.received, kind, receivedOfPayload, h.fixed length, payloadOrder_statedPayload h.checked length.ge]

theorem fetch (kind : statedKind bs = 8) :
    receiveBytes l bs = .fetch (statedDest bs) (BitVec.ofNat 8 (byteAt bs 8)) := by
  have length := h.oneByte (.inl kind)
  rw [h.received, kind, receivedOfPayload, h.fixed length, statedPayload, getD_sliceBytes (by omega)]

theorem control (kind : statedKind bs = 9) : receiveBytes l bs = controlOfBytes (statedDest bs) (statedPayload bs) := by
  rw [h.received, kind, receivedOfPayload]

/-- Kinds that no block takes: REPLY, QUIET and JOURNAL. -/
theorem nothing (kind : 10 ≤ statedKind bs) : receiveBytes l bs = .nothing := by
  have named : statedKind bs = 10 ∨ statedKind bs = 11 ∨ statedKind bs = 12 := by
    have pair := kindClass_eq_some_iff.1 h.kindClass
    simp only [List.mem_cons, Prod.mk.injEq, List.not_mem_nil, or_false] at pair
    omega
  rw [h.received]
  rcases named with reply | quiet | journal
  · rw [reply, receivedOfPayload]
    all_goals decide
  · rw [quiet, receivedOfPayload, h.fixed (h.oneByte (.inr quiet))]
  · rw [journal, receivedOfPayload]
    all_goals decide

end

end WellFormed

/-! ### What a frame does (R179, R180, R183) -/

/-- The command that received bytes spell. -/
def Received.command : Received → Option Instr
  | .badCheck | .badForm | .nothing | .malformedControl .. => none
  | .offer o => some (.offer o)
  | .bid a b c t => some (.bid a b c t)
  | .take a b c t late => some (.take a b c t late)
  | .landed a t => some (.landed a t)
  | .exit a t => some (.exit a t)
  | .grant g => some (.grant g)
  | .cancel d o => some (.cancel d o)
  | .fetch d k => some (.fetch d k)
  | .modeAction .opened d => some (.controlOpen d)
  | .modeAction .closeSoft d => some (.closeSoft d)
  | .modeAction .closeHard d => some (.closeHard d)
  | .status d => some (.status d)
  | .clearFaults d mask => some (.clearFaults d mask)
  | .mark d n ws => some (.mark d n ws)

section
variable {s : State} {bs : List Byte} (hs : s.live = true) {r : Received} (received : receiveBytes s.cfg.loopLength bs = r)
include hs received

theorem exec_frameReceived : exec (.frameReceived bs) s = .next (s.clearReceived.deliver bs r) :=
  received ▸ taken_of_live hs fun x => x.clearReceived.deliver bs (receiveBytes x.cfg.loopLength bs)

/-- Bytes act as the command they spell. -/
theorem exec_frameReceived_spelled {c : Instr} (spells : r.command = some c) : exec (.frameReceived bs) s = exec c s := by
  rw [exec_frameReceived hs received, ← taken_of_live hs fun x => x.clearReceived.deliver bs r]
  cases r with
  | badCheck | badForm | nothing | malformedControl => cases spells
  | modeAction a d => cases a <;> cases spells <;> rfl
  | _ => cases spells; rfl

end

section
variable {s : State} {d : Dest} {a : Byte}

theorem State.takeMalformedControl_addressed (addressed : s.addressed d = true) :
    s.takeMalformedControl d a = s.reply d.src (.control a .malformed) := if_pos addressed

theorem State.takeMalformedControl_away (away : s.addressed d = false) : s.takeMalformedControl d a = s :=
  if_neg (by simp [away])

end

end Sys2Proof.Machine

open Sys2Proof Sys2Proof.Machine

/-- Settles O52: check and form by the header and the payload's length, each kind by what its well-formed bytes hold (`WellFormed`),
and the effect by the command spelled (`exec_frameReceived_spelled`). -/
theorem frameBytesActAsCommand : Obligations.FrameBytesActAsCommand := by
  refine ⟨fun l bs => ⟨receiveBytes_eq_badCheck.trans (checkFails_iff bs), fun checked => ?_, fun checked formed => ?_⟩,
    fun s bs hs => ?_⟩
  · have checked := receiveBytes_ne_badCheck.1 checked
    rw [receiveBytes_eq_badForm checked, offerOfBytes_statedPayload_eq_badForm checked, offerUncoded, or_assoc, or_assoc]
    exact or_congr_right (or_congr_left (not_congr kindClass_eq_some_iff))
  · have h := wellFormed checked formed
    refine ⟨fun kind => ?_, h.bid, h.take, h.landed, h.exit, fun kind header => ?_, fun kind short => ?_, h.cancel, h.fetch,
      fun kind empty => ?_, fun kind some => ?_, h.nothing⟩
    · exact (h.received.trans (by rw [show statedKind bs = 1 from kind]; rfl)).trans
        (offerOfBytes_statedPayload h.checked (h.offer kind))
    · exact (h.grant kind).trans (congrArg _ (grantOfBytes_statedPayload h.checked header))
    · exact ⟨_, h.grant kind, rfl, grantOfBytes_short h.checked short⟩
    · exact ⟨_, (h.control kind).trans (controlOfBytes_empty ((statedPayload_length h.checked).trans empty))⟩
    · exact (h.control kind).trans (controlOfBytes_statedPayload h.checked some)
  · intro r fault
    have spelled {r' : Received} {c : Instr} (received : r = r') (spells : r'.command = some c) :=
      exec_frameReceived_spelled hs received spells
    refine ⟨exec_frameReceived hs, exec_frameReceived hs, exec_frameReceived hs, fun _ h => spelled h rfl, fun _ _ _ _ h => spelled h rfl,
      fun _ _ _ _ _ h => spelled h rfl, fun _ _ h => spelled h rfl, fun _ _ h => spelled h rfl, fun _ h => spelled h rfl,
      fun _ _ h => spelled h rfl, fun _ _ h => spelled h rfl, fun _ h => spelled h rfl, fun _ h => spelled h rfl,
      fun _ h => spelled h rfl, fun _ h => spelled h rfl, fun _ _ h => spelled h rfl, fun _ _ _ h => spelled h rfl,
      fun d a malformed => ⟨fun first last => ?_, fun outside => ?_⟩⟩
    · have addressed : s.clearReceived.addressed d = true := (State.addressed_iff _ _).2 ⟨first, last⟩
      rw [exec_frameReceived hs malformed, State.deliver, State.takeMalformedControl_addressed addressed]
    · have away : s.clearReceived.addressed d = false := (State.not_addressed_iff _ _).2 outside
      rw [exec_frameReceived hs malformed, State.deliver, State.takeMalformedControl_away away]
end

section
/-! SUPPORT. A frame as sent and received again (R178, R179): the check holds, and the header gives back every field that fits its bits. -/

namespace Sys2Proof.Machine

/-! ### The bytes of a sent frame (10 section 10.6) -/

theorem Payload.kindClass_kind (p : Payload) : kindClass p.kind = some p.cls := by
  cases p <;> rfl

theorem Payload.kind_lt (p : Payload) : p.kind < 32 := by
  cases p <;> simp [Payload.kind]

theorem Payload.cls_lt (p : Payload) : p.cls < 8 := by
  cases p <;> simp [Payload.cls, Payload.kind, Machine.kindClass]

theorem Frame.body_length (f : Frame) : f.body.length = 8 + f.payload.bytes.length := by
  simp only [Frame.body, headerBytes, List.length_append, beBytes_length]

theorem Frame.bytes_length (f : Frame) : f.bytes.length = 8 + f.payload.bytes.length + 2 := by
  rw [Frame.bytes, List.length_append, Frame.body_length, beBytes_length]

/-- The four fields of the header, each by its bytes. -/
theorem Frame.header_fields (f : Frame) :
    fieldAt f.bytes 0 5 = (f.rank * 32 + f.payload.kind) % 256 ^ 5 ∧ fieldAt f.bytes 5 1 = f.first % 256 ^ 1 ∧
      fieldAt f.bytes 6 1 = f.last % 256 ^ 1 ∧ fieldAt f.bytes 7 1 = f.payload.bytes.length % 256 ^ 1 := by
  simp only [Frame.bytes, Frame.body, headerBytes, List.append_assoc]
  refine ⟨beBytes_fieldAt .., ?_, ?_, ?_⟩
  · rw [fieldAt_beBytes_append (by decide), beBytes_fieldAt]
  · rw [fieldAt_beBytes_append (by decide), fieldAt_beBytes_append (by decide), beBytes_fieldAt]
  · rw [fieldAt_beBytes_append (by decide), fieldAt_beBytes_append (by decide), fieldAt_beBytes_append (by decide), beBytes_fieldAt]

section
variable {f : Frame} (short : f.payload.bytes.length ≤ 48)
include short

theorem Frame.statedLength_bytes : statedLength f.bytes = f.payload.bytes.length := by
  obtain ⟨-, -, -, length⟩ := f.header_fields
  rw [fieldAt_eq_numAt (by rw [f.bytes_length]; omega), numAt_one] at length
  rw [statedLength, length]
  omega

theorem Frame.statedPayload_bytes : statedPayload f.bytes = f.payload.bytes := by
  have header : (headerBytes f.rank f.payload.kind f.first f.last f.payload.bytes.length).length = 8 := rfl
  rw [statedPayload, statedLength_bytes short, Frame.bytes, sliceBytes_append_left f.body_length.ge, Frame.body,
    sliceBytes_append_right header.le, header, sliceBytes_all]

theorem Frame.checkFails_bytes : checkFails f.bytes = false := by
  have check : numAt f.bytes (8 + f.payload.bytes.length) 2 = (crc16 f.body).toNat := by
    have value := (crc16 f.body).isLt
    rw [← fieldAt_eq_numAt f.bytes_length.ge, fieldAt, Frame.bytes, sliceBytes_append_right f.body_length.le, f.body_length, Nat.sub_self,
      ← List.append_nil (beBytes 2 _), ← fieldAt, beBytes_fieldAt]
    omega
  rw [← Bool.not_eq_true, checkFails_iff, statedLength_bytes short, check, f.bytes_length]
  rw [Frame.bytes, List.take_left' f.body_length]
  simp only [lt_irrefl, ne_eq, not_true_eq_false, or_false, not_lt]
  omega

variable (score : f.score ≤ 65535) (dist : f.dist ≤ 1023) (src : f.src ≤ 63) (first : f.first < 64) (last : f.last < 64)
include score dist src

theorem Frame.rank_bytes : numAt f.bytes 0 5 = f.rank * 32 + f.payload.kind := by
  obtain ⟨rank, -⟩ := f.header_fields
  have kind := f.payload.kind_lt
  have cls := f.payload.cls_lt
  rw [← fieldAt_eq_numAt (by rw [f.bytes_length]; omega), rank, Frame.rank, rankNumber]
  omega

include first last

/-- The bytes of a frame whose fields fit the header come to what its payload comes to, with those fields. -/
theorem Frame.receiveBytes_bytes (l : Nat) :
    receiveBytes l f.bytes =
      receivedOfPayload l f.payload.kind { src := f.src, first := f.first, last := f.last } f.score f.dist f.payload.bytes := by
  have rank := Frame.rank_bytes short score dist src
  have kind := f.payload.kind_lt
  have cls := f.payload.cls_lt
  obtain ⟨-, lowest, highest, -⟩ := f.header_fields
  rw [fieldAt_eq_numAt (by rw [f.bytes_length]; omega), numAt_one] at lowest highest
  have kindRead : statedKind f.bytes = f.payload.kind := by rw [← rank_kind, rank]; omega
  have clsRead : statedClass f.bytes = f.payload.cls := by rw [← rank_class, rank, Frame.rank, rankNumber]; omega
  have scoreRead : statedScore f.bytes = f.score := by rw [← rank_score, rank, Frame.rank, rankNumber]; omega
  have distRead : statedDist f.bytes = f.dist := by rw [← rank_dist, rank, Frame.rank, rankNumber]; omega
  have destRead : statedDest f.bytes = { src := f.src, first := f.first, last := f.last } := by
    rw [statedDest_eq, rank, lowest, highest, Frame.rank, rankNumber]
    congr 1 <;> omega
  rw [receiveBytes_checked (Frame.checkFails_bytes short), statedLength_bytes short, if_neg short.not_gt, kindRead, clsRead,
    Payload.kindClass_kind, if_neg (not_not.2 rfl), scoreRead, distRead, destRead, statedPayload_bytes short]

end
end Sys2Proof.Machine
end

section
/-! SUPPORT. The payloads of the contest frames read back, the codes and the check of a sent frame (10 section 10.6, log 13), and the
statement. -/

namespace Sys2Proof.Machine

/-! ### The contest frames' payloads, read back -/

theorem fieldAt_beBytes_self (k v : Nat) : fieldAt (beBytes k v) 0 k = v % 256 ^ k := by
  simpa only [List.append_nil] using beBytes_fieldAt (ys := []) k v

theorem ofNat_toNat_mod {w k : Nat} (x : BitVec w) (fits : 256 ^ k = 2 ^ w) : BitVec.ofNat w (x.toNat % 256 ^ k) = x := by
  rw [fits, Nat.mod_eq_of_lt x.isLt, BitVec.ofNat_toNat, BitVec.setWidth_eq]

theorem Compartment.bytes_length (c : Compartment) : (Compartment.bytes c).length = 4 := rfl

theorem compOfBytes_bytes (c : Compartment) : compOfBytes (Compartment.bytes c) = c := by
  rw [compOfBytes, Compartment.bytes, beBytes_fieldAt, ofNat_toNat_mod _ (by decide)]
  rfl

theorem OfferCause.code_eq_idxOf (c : OfferCause) : c.code = [OfferCause.infeed, .release, .relinquish].idxOf c + 1 := by
  cases c <;> rfl

theorem TempClass.code_eq_idxOf (c : TempClass) : c.code = [TempClass.ambient, .chilled, .frozen].idxOf c + 1 := by
  cases c <;> rfl

theorem ReplyOutcome.code_eq_idxOf (o : ReplyOutcome) :
    o.code = [ReplyOutcome.accepted, .malformed, .putRange, .putBusy, .classNotServed, .duplicateLine, .orderTooLong,
      .tableFull, .benchClosed, .journalBound, .notFound].idxOf o := by
  cases o <;> rfl

theorem ModeAction.code_eq_idxOf (a : ModeAction) : a.code = [ModeAction.opened, .closeSoft, .closeHard].idxOf a + 1 := by
  cases a <;> rfl

theorem compCode_eq_idxOf {n : Nat} (held : n = 1 ∨ n = 2 ∨ n = 4) : compCode n = [1, 2, 4].idxOf n := by
  rcases held with rfl | rfl | rfl <;> rfl

theorem compCode_pow {n : Nat} (held : n = 1 ∨ n = 2 ∨ n = 4) : compCode n < 3 ∧ 2 ^ compCode n = n := by
  rcases held with rfl | rfl | rfl <;> decide

theorem getD_causeCode (c : OfferCause) :
    1 ≤ c.code ∧ c.code ≤ 3 ∧ [OfferCause.infeed, .release, .relinquish].getD (c.code - 1) .infeed = c := by
  cases c <;> decide

theorem getD_classCode (c : TempClass) :
    1 ≤ c.code ∧ c.code ≤ 3 ∧ [TempClass.ambient, .chilled, .frozen].getD (c.code - 1) .ambient = c := by
  cases c <;> decide

section
variable {tote : ToteId} {slot field : Nat} {cause : OfferCause} {cls : TempClass} {comps : List Compartment}

theorem offerPayload_length : (offerPayload tote slot cause cls comps field).length = 9 + 4 * comps.length := by
  have sizes : (comps.flatMap Compartment.bytes).length = 4 * comps.length := by
    simp only [List.length_flatMap, Compartment.bytes_length, List.map_const', List.sum_replicate, smul_eq_mul, mul_comm 4]
  simp only [offerPayload, List.length_append, beBytes_length, sizes]

theorem offerPayload_fields :
    let pay := offerPayload tote slot cause cls comps field
    fieldAt pay 0 4 = tote.toNat % 256 ^ 4 ∧ fieldAt pay 4 2 = slot % 256 ^ 2 ∧
      fieldAt pay 6 1 = (cause.code * 64 + cls.code * 16 + compCode comps.length) % 256 ^ 1 ∧
      fieldAt pay 7 2 = field % 256 ^ 2 ∧ pay.drop 9 = comps.flatMap Compartment.bytes := by
  simp only [offerPayload, List.append_assoc]
  refine ⟨beBytes_fieldAt .., ?_, ?_, ?_, rfl⟩
  · rw [fieldAt_beBytes_append (by decide), beBytes_fieldAt]
  · rw [fieldAt_beBytes_append (by decide), fieldAt_beBytes_append (by decide), beBytes_fieldAt]
  · rw [fieldAt_beBytes_append (by decide), fieldAt_beBytes_append (by decide), fieldAt_beBytes_append (by decide), beBytes_fieldAt]

/-- An OFFER's payload is read back whole when its fields fit their bits and its slot is on the loop. -/
theorem offerOfBytes_offerPayload {l src : Nat} (place : slot ≤ 1023) (exposure : field ≤ 4095)
    (held : comps.length = 1 ∨ comps.length = 2 ∨ comps.length = 4) (inside : slot < l) :
    offerOfBytes l src (offerPayload tote slot cause cls comps field) = .offer
      { src := src, tote := tote, slot := slot, cause := cause, cls := cls, comps := comps, exposureField := field } := by
  have length : (offerPayload tote slot cause cls comps field).length = 9 + 4 * comps.length := offerPayload_length
  obtain ⟨toteField, slotField, codeField, exposureField, compsField⟩ :=
    offerPayload_fields (tote := tote) (slot := slot) (field := field) (cause := cause) (cls := cls) (comps := comps)
  generalize offerPayload tote slot cause cls comps field = pay at length toteField slotField codeField exposureField compsField ⊢
  obtain ⟨code, count⟩ := compCode_pow held
  obtain ⟨causeLow, causeHigh, causeBack⟩ := getD_causeCode cause
  obtain ⟨clsLow, clsHigh, clsBack⟩ := getD_classCode cls
  have slotBack : fieldAt pay 4 2 % 1024 = slot := by omega
  have exposureBack : fieldAt pay 7 2 % 4096 = field := by omega
  have compsCode : fieldAt pay 6 1 % 4 = compCode comps.length := by omega
  have causeCode : fieldAt pay 6 1 / 64 = cause.code := by omega
  have clsCode : fieldAt pay 6 1 / 16 % 4 = cls.code := by omega
  have coded : ¬ offerUncoded (fieldAt pay 6 1) := by
    rw [offerUncoded, compsCode, causeCode, clsCode]
    omega
  have compsBack : (comps.map Compartment.bytes).map compOfBytes = comps := by
    rw [List.map_map]
    exact List.map_id'' compOfBytes_bytes comps
  rw [offerOfBytes_coded coded, compsCode, causeCode, clsCode, slotBack, exposureBack, count, if_pos ⟨length, inside⟩, toteField,
    ofNat_toNat_mod _ (by decide), causeBack, clsBack, compsField, groupsOf_flatMap Compartment.bytes_length, compsBack]

end

section
variable {l score dist src : Nat} {d : Dest}

theorem receivedOfPayload_bid (t : ToteId) :
    receivedOfPayload l (Payload.bid t).kind d score dist (Payload.bid t).bytes = .bid d.src score dist t := by
  rw [Payload.kind, receivedOfPayload, Payload.bytes, fixedLength, if_pos (beBytes_length ..), fieldAt_beBytes_self,
    ofNat_toNat_mod t (by decide)]

theorem receivedOfPayload_landed (t : ToteId) :
    receivedOfPayload l (Payload.landed t).kind d score dist (Payload.landed t).bytes = .landed d.src t := by
  rw [Payload.kind, receivedOfPayload, Payload.bytes, fixedLength, if_pos (beBytes_length ..), fieldAt_beBytes_self,
    ofNat_toNat_mod t (by decide)]

theorem receivedOfPayload_take (t : ToteId) (late : Bool) :
    receivedOfPayload l (Payload.take t late).kind d score dist (Payload.take t late).bytes = .take d.src score dist t late := by
  have mark : fieldAt (beBytes 4 t.toNat ++ beBytes 1 (if late then 1 else 0)) 4 1 % 2 = if late then 1 else 0 := by
    rw [fieldAt_beBytes_append (by decide), fieldAt_beBytes_self]
    cases late <;> rfl
  rw [Payload.kind, receivedOfPayload, Payload.bytes, fixedLength, if_pos (by simp), beBytes_fieldAt, ofNat_toNat_mod t (by decide), mark]
  cases late <;> rfl

/-- A frame to all whose score, distance and source fit the header, received. -/
theorem receiveBytes_toAll {p : Payload} (short : p.bytes.length ≤ 48) (scored : score ≤ 65535) (far : dist ≤ 1023)
    (source : src ≤ 62) :
    receiveBytes l (Frame.bytes { score := score, dist := dist, src := src, first := 1, last := 62, payload := p }) =
      receivedOfPayload l p.kind { src := src, first := 1, last := 62 } score dist p.bytes :=
  Frame.receiveBytes_bytes (f := { score := score, dist := dist, src := src, first := 1, last := 62, payload := p }) short scored far
    (source.trans (by decide)) (show 1 < 64 by decide) (show 62 < 64 by decide) l

end

/-! ### The check, bit by bit (R178, log 13) -/

theorem crcBits_eq_foldl (n : Nat) (c : BitVec 16) : crcBits n c = (List.range n).foldl (fun c _ => crcBit c) c := by
  induction n generalizing c with
  | zero => rfl
  | succ n ih => rw [crcBits, ih, List.range_succ_eq_map, List.foldl_cons, List.foldl_map]

theorem crc16_concat (bs : List Byte) (b : Byte) :
    crc16 (bs ++ [b]) = (List.range 8).foldl (fun c _ => crcBit c) (crc16 bs ^^^ (b.zeroExtend 16 <<< 8)) := by
  rw [crc16, List.foldl_append, ← crc16, List.foldl_cons, List.foldl_nil, crcByte, crcBits_eq_foldl]

/-- The header and payload of a frame, the rank and the kind together in 40 bits. -/
theorem Frame.body_eq (f : Frame) :
    f.body =
      beBytes 5 (f.payload.cls * 2 ^ 37 + f.score * 2 ^ 21 + (1023 - f.dist) * 2 ^ 11 + (63 - f.src) * 2 ^ 5 + f.payload.kind) ++
        [BitVec.ofNat 8 f.first, BitVec.ofNat 8 f.last, BitVec.ofNat 8 f.payload.bytes.length] ++ f.payload.bytes := by
  have rank : f.rank * 32 + f.payload.kind =
      f.payload.cls * 2 ^ 37 + f.score * 2 ^ 21 + (1023 - f.dist) * 2 ^ 11 + (63 - f.src) * 2 ^ 5 + f.payload.kind := by
    rw [Frame.rank, rankNumber]
    omega
  simp only [Frame.body, headerBytes, beBytes_one, rank, List.append_assoc, List.cons_append, List.nil_append]

end Sys2Proof.Machine

open Sys2Proof Sys2Proof.Machine

/-- Settles O53: the header of a sent frame is received with its fields (`Frame.receiveBytes_bytes`), each contest payload is read back
whole, and the payload bytes are given by the codes. -/
theorem sentFramesAreReceived : Obligations.SentFramesAreReceived := by
  refine ⟨fun l src score dist t late _ high scored far => ?_, fun l o _ high place exposure held inside => ?_, ?_, rfl,
    crc16_concat⟩
  · have received {p : Payload} (short : p.bytes.length ≤ 48) := receiveBytes_toAll (l := l) short scored far high
    exact ⟨(received (by simp [Payload.bytes])).trans (receivedOfPayload_bid t),
      (received (by simp [Payload.bytes])).trans (receivedOfPayload_take t late),
      (received (by simp [Payload.bytes])).trans (receivedOfPayload_landed t)⟩
  · have short : (Payload.offer o.tote o.slot o.cause o.cls o.comps o.exposureField).bytes.length ≤ 48 := by
      rw [Payload.bytes, offerPayload_length]
      omega
    exact (receiveBytes_toAll short (by decide) (by decide) high).trans (offerOfBytes_offerPayload place exposure held inside)
  · intro byte be
    have be_eq : be = beBytes := funext₂ fun k n => (beBytes_eq_map k n).symm
    rw [be_eq]
    refine ⟨fun f => ?_, fun t slot field c k comps held => ?_, fun t late => ⟨rfl, rfl, ?_⟩, fun m => ?_,
      fun first remaining count bound words => ?_, fun order o count pending a m action => ?_⟩
    · exact congrArg (fun b : List Byte => b ++ beBytes 2 (crc16 b).toNat) f.body_eq
    · rw [← OfferCause.code_eq_idxOf, ← TempClass.code_eq_idxOf, ← compCode_eq_idxOf held, ← beBytes_one]
      rfl
    · cases late <;> rfl
    · rw [← Mode.code_eq_idxOf, ← beBytes_one]
      rfl
    · simp only [Payload.bytes, beBytes_one]
      cases bound <;> simp [byte]
    · intro code
      have codeByte : beBytes 1 o.code = [code] := by rw [beBytes_one, ReplyOutcome.code_eq_idxOf]
      rw [← Mode.code_eq_idxOf, ← ModeAction.code_eq_idxOf]
      simp only [Payload.bytes, Reply.bytes, codeByte, beBytes_one, List.append_assoc, List.cons_append, List.nil_append]
      exact ⟨rfl, by cases pending <;> rfl, rfl, rfl, rfl⟩
end

section
/-! SUPPORT. What every command but a reset, or what holds one, leaves of the queue of commands and the power lines, and what only a command
that makes the one kind of change moves: arrival counter, contest records, intake mode. -/

namespace Sys2Proof.Machine

/-! ### Commands and the kinds of change they make -/

theorem tracker_notMem_changes {c : Instr} (h : tracks c = false) : Change.tracker ∉ changes c := by
  cases c with
  | encoderPulse | advance | homeMark | readerReport | divert | divertMiss | laneEntry => cases h
  | _ => simp [changes]

theorem clock_notMem_changes {c : Instr} (h : c ≠ .secondTick) : Change.clock ∉ changes c := by
  cases c with
  | secondTick => exact absurd rfl h
  | _ => simp [changes]

theorem arrival_notMem_changes {c : Instr} (h : grants c = false) : Change.arrival ∉ changes c := by
  cases c with
  | grant | frameReceived => cases h
  | _ => simp [changes]

theorem enter_notMem_changes {c : Instr} (h : makesRecords c = false) : Change.enter ∉ changes c := by
  cases c with
  | readerReport | offer | frameReceived => cases h
  | _ => simp [changes]

theorem mode_notMem_changes {c : Instr} (h : setsMode c = false) : Change.mode ∉ changes c := by
  cases c with
  | controlOpen | closeSoft | closeHard | frameReceived => cases h
  | _ => simp [changes]

/-! ### What the kinds of change leave -/

/-- From `a` to `s` by changes of the kinds `A` and of the shared operations: the waiting commands and the power lines stay (log 1, R188),
and so, unless `A` names their kind of change, do the arrival counter (R24), the totes contested (R61) and the intake mode with its
requester, but for a close that completes (R147, R156). -/
structure EventFrame (A : Change → Prop) (a s : State) : Prop where
  pending : s.pending = a.pending
  power : s.power = a.power
  arrival : ¬A .arrival → s.arrival = a.arrival
  records : ¬A .enter → s.contests.map Contest.tote ⊆ a.contests.map Contest.tote
  mode : ¬A .mode → s.mode = a.mode ∧ s.requester = a.requester ∨
    a.mode.closing = true ∧ s.mode = .closed ∧ s.requester = none

namespace EventFrame

variable {A : Change → Prop} {a s : State}

theorem refl (A : Change → Prop) (a : State) : EventFrame A a a :=
  ⟨rfl, rfl, fun _ => rfl, fun _ => List.Subset.refl _, fun _ => .inl ⟨rfl, rfl⟩⟩

/-- A close that completes began in the mode that stood, or the mode of `a` was closing before (R156). -/
theorem closed (closing : s.mode.closing = true) (h : EventFrame A a s) :
    EventFrame A a { s with mode := .closed, requester := none } :=
  { h with
    mode := fun other => .inr <| by
      obtain ⟨mode, _⟩ | ⟨began, _⟩ := h.mode other
      · exact ⟨mode ▸ closing, rfl, rfl⟩
      · exact ⟨began, rfl, rfl⟩ }

/-- Records taken out of the contest table or changed under their totes. -/
theorem contests {x : List Contest} (fewer : (x.map Contest.tote).Sublist (s.contests.map Contest.tote)) (h : EventFrame A a s) :
    EventFrame A a { s with contests := x } :=
  { h with records := fun other => List.Subset.trans fewer.subset (h.records other) }

theorem keeps (A : Change → Prop) (a : State) : Keeps (EventFrame A a) where
  lines _ h := { h with }
  puts _ h := { h with }
  lanes _ h := { h with }
  floor _ _ h := { h with }
  panel _ _ h := { h with }
  write _ h := { h with }
  faults _ h := { h with }
  enqueue _ h := { h with }
  closed closing _ h := h.closed closing
  contests _ fewer h := h.contests fewer
  roster _ _ h := { h with }
  withdraw _ h := { h with }

theorem keepsAll (A : Change → Prop) (a : State) : KeepsAll A (EventFrame A a) where
  toKeeps := keeps A a
  enter k _ _ _ _ _ h := { h with records := absurd k }
  fresh _ _ _ h := { h with }
  landing _ _ _ _ _ _ h := { h.contests (List.filter_sublist.map _) with }
  tracker _ _ _ h := { h with }
  clock _ _ _ h := { h with }
  received _ _ _ h := { h with }
  arrival k _ _ h := { h with arrival := absurd k }
  act _ _ _ _ h := { h with }
  start _ _ _ _ _ _ h := { h with }
  stop _ _ h := { h with }
  carry _ _ h := { h with }
  fetched _ _ _ h := { h with }
  cleared _ _ _ h := { h with }
  reopen k _ h := { h with mode := absurd k }
  soft k _ n _ h := (keeps A a).enterSoft (fun _ _ _ h => { h with mode := absurd k }) (fun h => { h with }) n h
  hard k _ n _ h := (keeps A a).enterHard (fun _ _ _ h => { h with mode := absurd k }) (fun h => { h with }) n h
  replace k _ _ _ h := { h with mode := absurd k }

/-- A command that neither takes nor holds a reset makes only its own kinds of change. -/
theorem of_exec {c : Instr} {s t : State} (event : resets c = false) (next : exec c s = .next t) : EventFrame (· ∈ changes c) s t :=
  (keepsAll _ s).exec c event (fun _ k => k) next (refl _ s)

end EventFrame

end Sys2Proof.Machine

open Sys2Proof Sys2Proof.Machine

/-- Settles O4: a command makes only the kinds of change that `changes` lists for it, and each clause is about one kind it does not make. -/
theorem commandsFrame : Obligations.CommandsFrame := by
  intro c s t event next
  have frame := EventFrame.of_exec event next
  have same := (SameImage.keepsAll s).exec c event (fun _ _ => trivial) next (.refl s)
  refine ⟨⟨frame.pending, frame.power, same.straps, same.memory, same.image⟩, fun other => ?_, fun other => ?_,
    fun other => frame.arrival (arrival_notMem_changes other), fun other x hx => ?_,
    fun other => frame.mode (mode_notMem_changes other)⟩
  · exact (KeepsAll.trackerIs s.tracker).exec c event (fun _ hk => ne_of_mem_of_not_mem hk (tracker_notMem_changes other)) next rfl
  · exact (KeepsAll.msIs s.ms).exec c event (fun _ hk => ne_of_mem_of_not_mem hk (clock_notMem_changes other)) next rfl
  · exact List.mem_map.1 (frame.records (enter_notMem_changes other) (List.mem_map_of_mem hx))
end

section
/-! SUPPORT. Commands while the bench is UNCONFIGURED or a reset is held (R187, log 10), and what holds a reset (R188). -/

namespace Sys2Proof.Machine

variable {s : State}

/-! ### Commands that wait -/

/-- Every command but the resets, what holds them and SECOND_TICK has its effect only while the bench takes events. -/
theorem exec_eq_taken {c : Instr} (event : resets c = false) (other : c ≠ .secondTick) : ∃ f, ∀ s, exec c s = taken f s := by
  cases c with
  | coldReset | warmReset | supplyFall | resetAssertion => cases event
  | secondTick => exact absurd rfl other
  | _ => exact ⟨_, fun _ => rfl⟩

theorem whenLive_of_not_live (f : State → State) (dead : s.live = false) : whenLive f s = s := if_neg (by simp [dead])

theorem exec_of_not_live {c : Instr} (event : resets c = false) (other : c ≠ .secondTick) (dead : s.live = false) :
    exec c s = .next s := by
  obtain ⟨f, effect⟩ := exec_eq_taken event other
  rw [effect, taken, whenLive_of_not_live f dead]

theorem exec_secondTick_held (held : s.resetHeld = true) : exec .secondTick s = .next s := congrArg _ (if_pos held)

/-- An UNCONFIGURED bench with no reset held counts its clock (R187, log 3). -/
theorem exec_secondTick_unconfigured (dead : s.live = false) (free : s.resetHeld = false) :
    exec .secondTick s = .next s.nextSecond := by
  have stays : s.nextSecond.live = false := dead
  rw [exec, execSecondTick, if_neg (by simp [free]), whenLive_of_not_live _ stays]

/-! ### What holds a reset (R188, log 10) -/

theorem exec_coldReset_asserted (asserted : s.power.resetAsserted = true) (x : Sensors) :
    exec (.coldReset x) s = .next { s with power := { s.power with supplyOk := true, coldPending := true } } :=
  congrArg _ (if_pos asserted)

theorem exec_warmReset_low (low : s.power.supplyOk = false) (x : Sensors) :
    exec (.warmReset x) s = .next { s with power := { s.power with resetAsserted := false } } :=
  congrArg _ (if_neg (by simp [low]))

/-- After a fall of the supply the release of the RESET line takes a cold reset (R188). -/
theorem exec_warmReset_cold (up : s.power.supplyOk = true) (fallen : s.power.coldPending = true) (x : Sensors) :
    exec (.warmReset x) s = .next (s.takeReset .cold x) := by
  rw [exec, execWarmReset, if_pos up, if_pos fallen]

/-- A reset that is taken does not look at the power lines. -/
theorem State.takeReset_power (s : State) (p : Power) (k : ResetKind) (x : Sensors) :
    State.takeReset k x { s with power := p } = s.takeReset k x := rfl

theorem exec_coldReset_released (s : State) (x : Sensors) :
    exec (.coldReset x) { s with power := { s.power with resetAsserted := false } } = .next (s.takeReset .cold x) :=
  (exec_coldReset_taken rfl x).trans (congrArg _ (s.takeReset_power _ .cold x))

end Sys2Proof.Machine

open Sys2Proof Sys2Proof.Machine

/-- Settles O3: on a bench that takes no events each command but SECOND_TICK is an event not taken; and the resets by the lines that
hold them. -/
theorem commandsWaitAndResetsAreHeld : Obligations.CommandsWaitAndResetsAreHeld := by
  refine ⟨fun c s event dead => ⟨fun other => exec_of_not_live event other dead, fun tick held => ?_, fun tick free => ?_⟩,
    fun s x => ⟨rfl, rfl, fun asserted => exec_coldReset_asserted asserted x, fun low => exec_warmReset_low low x,
      fun up fallen => ?_⟩⟩
  · exact tick ▸ exec_secondTick_held held
  · exact tick ▸ exec_secondTick_unconfigured dead free
  · rw [exec_warmReset_cold up fallen, exec_coldReset_released]
end

section
/-! SUPPORT. The step of a bench with a command waiting (log 1). -/

namespace Sys2Proof.Machine

/-- The command at the front leaves the queue before it runs, so it sees only what waits behind it. -/
theorem step_of_pending_cons {s : State} {c : Instr} {rest : List Instr} (front : s.pending = c :: rest) :
    step s = exec c { s with pending := rest } := by
  rw [step, front]

end Sys2Proof.Machine

open Sys2Proof Sys2Proof.Machine

/-- Settles O1, by `step_of_pending_cons`. -/
theorem stepTakesFrontCommand : Obligations.StepTakesFrontCommand :=
  fun _ _ _ front => step_of_pending_cons front
end
